-- ==== Sys2Proof/Word.lean ====
section
/-! DEFINITION. The kinds of number the block handles. Rule R8 (00_scope.md): every value in this block is an
unsigned natural number, nothing is signed and nothing wraps. The widths of addresses, counters, command words and
response data are elaboration-time parameters (R5, R6), so these values are naturals and their widths are stated as
bounds; the fields whose width the spec fixes are bit vectors. -/

namespace Sys2Proof

/-- The 4-bit opcode field `CW[3:0]` (R61, R62). -/
abbrev Opcode := BitVec 4

end Sys2Proof
end

