-- ==== Sys2Proof/Config.lean ====
section
/-! DEFINITION. The elaboration-time parameters of one block (R5, R25), the names of the configuration checks
(R148 to R157), and the configuration of the test vectors that State.reset uses. -/

namespace Sys2Proof

/-- `MERGE_CHECK` (R5, R121; D11): how strict the MERGE compatibility check is. -/
inductive MergeCheck where
  | full
  | sizeOnly
deriving DecidableEq, Repr

/-- `HOST_PACKING` (R5, R43, I9; D16, OPEN): how a host lays the command word into bytes or maps the port into its
address space. R5 makes it an enumeration and lists no member, so a value is the number of a member in the enumeration
that the host fixes (log entry 7, DESIGN CHOICE). -/
structure HostPacking where
  member : Nat
deriving DecidableEq, Repr

/-- The thirteen parameters of R5. -/
structure Config where
  /-- `SIZE`: the number of counters. -/
  size : Nat
  /-- `OFFSET_BITS`: low-order address bits dropped before hashing. -/
  offsetBits : Nat
  /-- `COUNTER_WIDTH` (`W`): bits per counter. -/
  counterWidth : Nat
  /-- `THRESHOLD` (`T`): the count at and above which a slot reads as set. -/
  threshold : Nat
  /-- `MASK_LSBS`: the `lsb` of each mask, in order. -/
  maskLsbs : List Nat
  /-- `MASK_SIZES`: the `width` of each mask, in order. -/
  maskSizes : List Nat
  /-- `ADDR_WIDTH` (`A`): OPEN (D3). -/
  addrWidth : Nat
  /-- `HAS_UNSET`: OPEN, default true (D10). -/
  hasUnset : Bool
  /-- `MERGE_CHECK`: OPEN, default FULL (D11). -/
  mergeCheck : MergeCheck
  /-- `MAX_COUNTER_WIDTH`: OPEN, default none (D22). -/
  maxCounterWidth : Option Nat
  /-- `MAX_MASKS`: OPEN, default none (D23). -/
  maxMasks : Option Nat
  /-- `CMD_LATENCY`: OPEN (D1); no rule depends on it (R236; log entry 12). -/
  cmdLatency : Nat
  /-- `HOST_PACKING`: OPEN (D16, I9); no rule depends on it (R43; log entry 7). -/
  hostPacking : HostPacking
deriving DecidableEq, Repr

/-- Why a configuration gives no block. The first nine are the checks of R148 to R156 by the names those rules give
them. The next two are the legal-value columns of R5 that R148 to R156 do not imply (log entry 3, DEDUCED): a bound
`MAX_COUNTER_WIDTH` or `MAX_MASKS` of 0 already fails R149 or R156, since R149 and R152 ask for at least 1. -/
inductive ConfigError where
  /-- `CFG_SIZE`, R148. -/
  | size
  /-- `CFG_COUNTER_WIDTH`, R149. -/
  | counterWidth
  /-- `CFG_THRESHOLD`, R150. -/
  | threshold
  /-- `CFG_OFFSET`, R151. -/
  | offset
  /-- `CFG_NO_MASKS`, R152. -/
  | noMasks
  /-- `CFG_MASK_INCOMPLETE`, R153. -/
  | maskIncomplete
  /-- `CFG_LSB_OUT_OF_RANGE`, R154. -/
  | lsbOutOfRange
  /-- `CFG_MASK_TOO_LARGE`, R155. -/
  | maskTooLarge
  /-- `CFG_MASK_COUNT`, R156. -/
  | maskCount
  /-- `ADDR_WIDTH ≥ 1`, R5. -/
  | addrWidth
  /-- `CMD_LATENCY ≥ 1`, R5. -/
  | cmdLatency
  /-- The blocks of one system have the same `ADDR_WIDTH` (D3, R120); raised when a system is put together. -/
  | addrWidthsDiffer
deriving DecidableEq, Repr

/-- `CFG_A` of 95_test_vectors.md section 0: the source's own fold example completed with a SIZE and a W.
State.reset uses it (log entry 1, DESIGN CHOICE: the spec leaves every parameter to the instantiation). -/
def Config.cfgA : Config where
  size := 16
  offsetBits := 0
  counterWidth := 2
  threshold := 2
  maskLsbs := [1, 3]
  maskSizes := [1, 1]
  addrWidth := 16
  hasUnset := true
  mergeCheck := .full
  maxCounterWidth := none
  maxMasks := none
  cmdLatency := 1
  hostPacking := ⟨0⟩

end Sys2Proof
end

