-- ==== Sys2Proof/Machine/Params.lean ====
section
/-! DEFINITION. The operators of R7 and R8 that the model uses, and the derived constants of R6. -/

namespace Sys2Proof.Machine

/-- `mask(w) = 2^w − 1` (R8). -/
def mask (w : Nat) : Nat := 2 ^ w - 1

/-- `v[hi:lo]` (R7): bits `hi` down to `lo` inclusive as an unsigned number; 0 when `hi < lo`. -/
def slice (v hi lo : Nat) : Nat := (v >>> lo) % 2 ^ (hi + 1 - lo)

/-- `bitlen(n)` (R6): the number of bits needed to write `n` in binary, and `bitlen(0) = 0`. -/
def bitlen (n : Nat) : Nat := if n = 0 then 0 else Nat.log2 n + 1

/-- `zext_N(v)` (R8): `v` as an `N`-bit value. It requires `v < 2^N`; where that fails there is no value. -/
def zext (n v : Nat) : Option Nat := if v < 2 ^ n then some v else none

/-- `CEIL = 2^W − 1` (R6), the saturation ceiling. -/
def ceil (c : Config) : Nat := mask c.counterWidth

/-- `K` (R6), the number of masks. -/
def numMasks (c : Config) : Nat := c.maskLsbs.length

/-- The masks as `(lsb_j, width_j)` pairs, in order (R6, C9). A valid configuration has as many sizes as `lsb`s (R153).
Where the two lists differ in length, `lsb_j` or `width_j` of a mask has no value and the spec gives no index; here the
incomplete masks are dropped and the complete ones fold (log entry 20, DESIGN CHOICE). -/
def masks (c : Config) : List (Nat × Nat) := c.maskLsbs.zip c.maskSizes

/-- `MAXW = floor(log2(SIZE))` (R6), the largest legal mask width. -/
def maxWidth (c : Config) : Nat := Nat.log2 c.size

/-- `TOTAL_WIDTH = max(1, bitlen(SIZE × CEIL))` (R6, D20). -/
def totalWidth (c : Config) : Nat := max 1 (bitlen (c.size * ceil c))

/-- `CW_WIDTH = ADDR_WIDTH + 4` (R6), as a function of `ADDR_WIDTH`. -/
def cwWidth (addrWidth : Nat) : Nat := addrWidth + 4

end Sys2Proof.Machine
end

