-- ==== Sys2Proof/Machine/Elaborate.lean ====
section
/-! DEFINITION. Configuration validation (43_address_folding.md rules R148 to R157) and the legal-value columns of
R5. An invalid configuration gives no block (R157, R219): State.lean's `elaborate` answers the error found here. -/

namespace Sys2Proof.Machine

/-- `v` respects a bound that an implementation may set (R149, R156): none is no bound. -/
def withinBound (v : Nat) : Option Nat → Bool
  | none => true
  | some b => decide (v ≤ b)

/-- `CFG_SIZE` (R148). -/
def checkSize (c : Config) : Bool := decide (1 ≤ c.size)

/-- `CFG_COUNTER_WIDTH` (R149). -/
def checkCounterWidth (c : Config) : Bool :=
  decide (1 ≤ c.counterWidth) && withinBound c.counterWidth c.maxCounterWidth

/-- `CFG_THRESHOLD` (R150). -/
def checkThreshold (c : Config) : Bool := decide (1 ≤ c.threshold) && decide (c.threshold ≤ ceil c)

/-- `CFG_OFFSET` (R151). -/
def checkOffset (c : Config) : Bool := decide (c.offsetBits ≤ c.addrWidth)

/-- `CFG_NO_MASKS` (R152). -/
def checkSomeMask (c : Config) : Bool :=
  decide (1 ≤ c.maskLsbs.length) && decide (1 ≤ c.maskSizes.length)

/-- `CFG_MASK_INCOMPLETE` (R153). -/
def checkMaskComplete (c : Config) : Bool := decide (c.maskLsbs.length = c.maskSizes.length)

/-- `CFG_LSB_OUT_OF_RANGE` (R154): the bound is on `ADDR_WIDTH`, not on `ADDR_WIDTH − OFFSET_BITS`. -/
def checkLsbRange (c : Config) : Bool := (masks c).all fun m => decide (m.1 + m.2 ≤ c.addrWidth)

/-- `CFG_MASK_TOO_LARGE` (R155; C1 chooses this bound): `2^width_j ≤ SIZE` for every mask. -/
def checkMaskWidth (c : Config) : Bool := (masks c).all fun m => decide (2 ^ m.2 ≤ c.size)

/-- `CFG_MASK_COUNT` (R156). -/
def checkMaskCount (c : Config) : Bool := withinBound (numMasks c) c.maxMasks

/-- The nine checks in the order of R148 to R156, each with the name it reports. -/
def configChecks (c : Config) : List (ConfigError × Bool) :=
  [(.size, checkSize c),
   (.counterWidth, checkCounterWidth c),
   (.threshold, checkThreshold c),
   (.offset, checkOffset c),
   (.noMasks, checkSomeMask c),
   (.maskIncomplete, checkMaskComplete c),
   (.lsbOutOfRange, checkLsbRange c),
   (.maskTooLarge, checkMaskWidth c),
   (.maskCount, checkMaskCount c)]

/-- The legal-value columns of R5 that R148 to R156 do not imply (log entry 3, DEDUCED). -/
def paramChecks (c : Config) : List (ConfigError × Bool) :=
  [(.addrWidth, decide (1 ≤ c.addrWidth)),
   (.cmdLatency, decide (1 ≤ c.cmdLatency))]

/-- The name of the first check that fails, if one does (R157). -/
def firstFailing (checks : List (ConfigError × Bool)) : Option ConfigError :=
  (checks.find? fun p => !p.2).map (·.1)

/-- Validation as R157 has it: R148 to R156 alone. -/
def validate (c : Config) : Option ConfigError := firstFailing (configChecks c)

/-- What elaboration reports: R148 to R156 in order first (R157), then the rest of R5's columns. -/
def elabError (c : Config) : Option ConfigError := firstFailing (configChecks c ++ paramChecks c)

end Sys2Proof.Machine
end

