-- ==== Sys2Proof/Syntax.lean ====
section
/-! DEFINITION. The commands (R62): one constructor per row of spec/opcode_table.json, the reserved opcodes
included. Every command word has an `addr` field (R61), and every constructor carries it, so that no bit of a word is
lost; the commands that R64 names ignore it. -/

namespace Sys2Proof

/-- A decoded command. -/
inductive Instr where
  /-- 0x1 `SET addr` (R82). -/
  | set (addr : Nat)
  /-- 0x2 `UNSET addr` (R83). -/
  | unset (addr : Nat)
  /-- 0x3 `GETCOUNT addr` (R100). -/
  | getCount (addr : Nat)
  /-- 0x4 `ISSET addr` (R101). -/
  | isSet (addr : Nat)
  /-- 0x5 `GETTOTAL` (R102); the field is ignored (R64). -/
  | getTotal (addr : Nat)
  /-- 0x6 `CLEAR` (R84); the field is ignored (R64). -/
  | clear (addr : Nat)
  /-- 0x7 `MERGE` (R122); the peer is on the merge-source port, the field is ignored (R64). -/
  | merge (addr : Nat)
  /-- 0x0, reserved (R65, R202); the field is ignored (R64). -/
  | reserved0 (addr : Nat)
  /-- 0x8, reserved. -/
  | reserved8 (addr : Nat)
  /-- 0x9, reserved. -/
  | reserved9 (addr : Nat)
  /-- 0xA, reserved. -/
  | reservedA (addr : Nat)
  /-- 0xB, reserved. -/
  | reservedB (addr : Nat)
  /-- 0xC, reserved. -/
  | reservedC (addr : Nat)
  /-- 0xD, reserved. -/
  | reservedD (addr : Nat)
  /-- 0xE, reserved. -/
  | reservedE (addr : Nat)
  /-- 0xF, reserved. -/
  | reservedF (addr : Nat)
deriving DecidableEq, Repr

/-- The `addr` field of a command (R61). -/
def Instr.addr : Instr → Nat
  | .set a | .unset a | .getCount a | .isSet a | .getTotal a | .clear a | .merge a
  | .reserved0 a | .reserved8 a | .reserved9 a | .reservedA a | .reservedB a | .reservedC a
  | .reservedD a | .reservedE a | .reservedF a => a

/-- Why a number is not decoded. R66 makes the decoder total on command words, so the only reason is that the number
is not a word of `CW_WIDTH` bits. -/
inductive DecodeError where
  | notACommandWord (cw width : Nat)
deriving DecidableEq, Repr

end Sys2Proof
end

