-- ==== Sys2Proof/WellFormed.lean ====
section
/-! DEFINITION. Which commands and which configurations are well formed. -/

namespace Sys2Proof

/-- A command is well formed when its `addr` field has `ADDR_WIDTH` bits (R41, R61, R63). -/
abbrev Instr.WellFormed (addrWidth : Nat) (i : Instr) : Prop := i.addr < 2 ^ addrWidth

/-- A configuration that elaborates: it passes every check of R148 to R156 and the legal-value columns of R5. -/
abbrev Config.Legal (c : Config) : Prop := Machine.elabError c = none

end Sys2Proof
end

