-- ==== Sys2Proof/Machine/Block.lean ====
section
/-! DEFINITION. One block: its fault register, its response port, its counters, the snapshot a peer shows, and the
reset state of a block (R20, R26, R30, R68, R120). -/

namespace Sys2Proof.Machine

/-- The fault register `FAULT` (R26): 2 bits, and each of its four values has a name. `FaultCode.code` in Flags.lean
gives the numbers. -/
inductive FaultCode where
  | none
  | illegalCommand
  | unsupported
  | compatError
deriving DecidableEq, Repr

/-- The status codes of `rsp_status` (R69). The values 5 to 7 are never returned and have no constructor. -/
inductive Status where
  | ok
  | illegalCommand
  | unsupported
  | compatError
  | halted
deriving DecidableEq, Repr

/-- A response (R68): `rsp_status`, and `rsp_data` of `TOTAL_WIDTH` bits as a natural number. -/
structure Response where
  status : Status
  data : Nat
deriving DecidableEq, Repr

/-- One block (R20): its configuration, its counter array and its fault register, with what its response port shows. -/
structure Block where
  /-- `CFG` (R25): hardwired; no command writes it. -/
  cfg : Config
  /-- `CNT[0..SIZE−1]` (R21), counter `i` at position `i`. -/
  cnt : List Nat
  /-- `FAULT` (R26). -/
  fault : FaultCode
  /-- The response port (R60, R67): the answer to the last accepted command, or no response pending (R30). An output,
  not retained state (R28): no command reads it (log entry 4). -/
  rsp : Option Response
deriving DecidableEq, Repr

/-- The peer snapshot on the merge-source port (R120), and nothing that R120 does not list. -/
structure Peer where
  size : Nat
  offsetBits : Nat
  counterWidth : Nat
  threshold : Nat
  maskLsbs : List Nat
  maskSizes : List Nat
  cnt : List Nat
deriving DecidableEq, Repr

/-- A block with configuration `c` in the reset state (R30, R230): every counter 0, FAULT NONE, no response pending. -/
def Block.atReset (c : Config) : Block where
  cfg := c
  cnt := List.replicate c.size 0
  fault := .none
  rsp := Option.none

end Sys2Proof.Machine
end

