-- ==== Sys2Proof/Machine/Flags.lean ====
section
/-! DEFINITION. The block has no condition flags (R28, D19). What it shows instead: the numbers of FAULT and of
rsp_status (R26, R69), the output `fault_o` (R211), and the threshold comparator (R101), whose answer goes into
rsp_data and into no flag. -/

namespace Sys2Proof.Machine

/-- The 2-bit value of FAULT (R26). -/
def FaultCode.code : FaultCode → BitVec 2
  | .none => 0
  | .illegalCommand => 1
  | .unsupported => 2
  | .compatError => 3

/-- The 3-bit value of rsp_status (R69). -/
def Status.code : Status → BitVec 3
  | .ok => 0
  | .illegalCommand => 1
  | .unsupported => 2
  | .compatError => 3
  | .halted => 4

/-- The status with which a fault entry answers: the fault's own number (R67, R69, R207). -/
def FaultCode.status : FaultCode → Status
  | .none => .ok
  | .illegalCommand => .illegalCommand
  | .unsupported => .unsupported
  | .compatError => .compatError

/-- The output `fault_o`: 1 exactly when FAULT is not NONE (R26, R211). -/
def Block.faultO (x : Block) : Bool := decide (x.fault ≠ .none)

/-- The threshold comparator (R101): 1 when the count is at or above THRESHOLD, as an unsigned comparison. -/
def comparator (c : Config) (v : Nat) : Nat := if c.threshold ≤ v then 1 else 0

end Sys2Proof.Machine
end

