-- ==== Sys2Proof/Machine/State.lean ====
section
/-! DEFINITION. The state of a system of blocks (R20, R215), as plain data, the reasons a step can stop, and the
state after reset (R30). -/

namespace Sys2Proof.Machine

/-- One input of the host (R31, R60, R215). -/
inductive HostEvent where
  /-- Present the command word `cw` to block `rcv`, with block `src` on its merge-source port. -/
  | command (rcv src : Nat) (cw : Nat)
  /-- Assert and release `rst` of block `target` (R230). -/
  | reset (target : Nat)
deriving DecidableEq, Repr

/-- A system of blocks (R215) and the host's inputs. -/
structure State where
  /-- The blocks, in the host's numbering; a block holds no number of its own (R215; log entry 14). -/
  blocks : List Block
  /-- The block that receives the command being executed: an input of the step (R31). -/
  rcv : Nat
  /-- The block on the merge-source port: an input of the step (R31, R120). -/
  src : Nat
  /-- The host's inputs still to come, in the one total order of R48. -/
  host : List HostEvent
deriving DecidableEq, Repr

/-- Stops of the MODEL in states that the spec says cannot arise (log entry 6). The block's own faults are no stops:
they are taken as R207 says, and the step answers a next state. Every one is safe: from a well-formed state none is
raised. A state that cannot arise need not stop: what executes on one is log entry 22 (DESIGN CHOICE). -/
inductive Fault where
  /-- An index at or above `SIZE`, or outside the counter list: raised by SET, UNSET, GETCOUNT and ISSET.
  93_implementation_defined.md I6 tells a model that admits an unvalidated configuration to fault here. Safe. -/
  | indexOutOfRange
  /-- A counter list whose length is not `SIZE` where every counter is read (GETTOTAL, MERGE): against R21. Safe. -/
  | arrayShape
  /-- A counter written above `CEIL`: R9 requires `v ≤ CEIL`. Raised by UNSET of a counter above `CEIL + 1`, and by no
  other command: SET writes at most `CEIL` whatever it reads (log entry 22). Safe. -/
  | countTooWide
  /-- Response data that does not fit `rsp_data`: R8's `zext` requires `v < 2^N`. Raised by the queries. Safe. -/
  | dataTooWide
deriving DecidableEq, Repr

/-- What the model refuses: inputs that the spec gives the host no way to present (log entry 5). Every one is safe. -/
inductive Refusal where
  /-- A command without a meaning: raised by exec's arm of a command that is not modelled (there is none). Safe. -/
  | notModelled (mnemonic : String)
  /-- The host names a receiving block that the system does not have (R215): raised by exec and step. Safe. -/
  | noSuchBlock (k : Nat)
  /-- A MERGE with no block on its merge-source port (R120): raised by MERGE on a running block. Safe. -/
  | noPeer (k : Nat)
  /-- The number on the command port is no word of `CW_WIDTH` bits (R61): raised by step. Safe. -/
  | notACommandWord (cw : Nat)
deriving DecidableEq, Repr

/-- The system after reset (R30). The spec fixes no configuration and no number of blocks: two blocks of
`Config.cfgA`, as program P3 of 95_test_vectors.md has them (log entry 1, DESIGN CHOICE), with block 1 on the
merge-source port of block 0 and no host input yet (log entry 2, DESIGN CHOICE). -/
def State.reset : State where
  blocks := [Block.atReset Config.cfgA, Block.atReset Config.cfgA]
  rcv := 0
  src := 1
  host := []

end Sys2Proof.Machine
end

