-- ==== Sys2Proof/Machine/Ops.lean ====
section
/-! DEFINITION. The shared operations: saturating arithmetic (R80, R81, R123), reading and writing counters (R9),
responding (R68), fault entry (R207) and the way back by reset (R209, R230), and the frame every command runs in: the
receiving block, the halted check first (R206, R208). -/

namespace Sys2Proof.Machine

/-- `sat_inc(c) = min(c + 1, CEIL)` (R80, for `0 ≤ c ≤ CEIL`). A counter above `CEIL`, which no block holds (R22), becomes
`CEIL` by the same formula (log entry 22, DESIGN CHOICE). -/
def satInc (cfg : Config) (c : Nat) : Nat := min (c + 1) (ceil cfg)

/-- `sat_dec(c) = max(c − 1, 0)`, with `c − 1` taken in the integers (R81, for `0 ≤ c ≤ CEIL`). A counter above `CEIL` goes
through the same formula (log entry 22, DESIGN CHOICE). -/
def satDec (c : Nat) : Nat := (max ((c : Int) - 1) 0).toNat

/-- `sat_add(a, b) = min(a + b, CEIL)`, with the destination's CEIL (R123, D25). R123 takes every natural `b`; an `a`
above `CEIL`, which no block holds, goes through the same formula (log entry 22, DESIGN CHOICE). -/
def satAdd (cfg : Config) (a b : Nat) : Nat := min (a + b) (ceil cfg)

/-- `CNT[i]` (R9), for `0 ≤ i < SIZE`; there is no counter elsewhere. -/
def Block.readCount (x : Block) (i : Nat) : Option Nat :=
  if i < x.cfg.size then x.cnt[i]? else Option.none

/-- The list of the counters with counter `i` set to `v`. -/
def Block.writeCount (x : Block) (i : Nat) (v : Nat) : Block := { x with cnt := x.cnt.set i v }

/-- Every counter in order (GETTOTAL, MERGE), when the list has one entry for each index (R21). -/
def Block.readAll (x : Block) : Option (List Nat) :=
  if x.cnt.length = x.cfg.size then some x.cnt else Option.none

/-- `respond(status, data)` (R9, R67, R68). -/
def Block.respond (x : Block) (st : Status) (data : Nat) : Block := { x with rsp := some ⟨st, data⟩ }

/-- `respond(OK, zext_TOTAL_WIDTH(v))`, the end of every query (R68, R100 to R102). -/
def Block.answer (x : Block) (v : Nat) : Host.Outcome Block Fault Refusal :=
  match zext (totalWidth x.cfg) v with
  | some d => .next (x.respond .ok d)
  | Option.none => .fault .dataTooWide

/-- Fault entry (R207): FAULT takes the code, the response is (code, 0), nothing else changes. There is no handler, no
vector and no saved program counter. -/
def Block.raise (x : Block) (c : FaultCode) : Block := { x with fault := c, rsp := some ⟨c.status, 0⟩ }

/-- Reset (R30, R230): the only return from a fault (R209). The configuration does not change. -/
def Block.reset (x : Block) : Block := Block.atReset x.cfg

/-- A command on a halted block (R208): the answer is (HALTED, 0) and nothing changes. -/
def Block.refuseHalted (x : Block) : Block := x.respond .halted 0

/-- Read, change and write back the counter an address selects, then respond (OK, 0): what SET and UNSET share
(R53, R82, R83). The written value must be at most CEIL (R9); the value read is not checked (log entry 22). -/
def Block.updateCount (x : Block) (i : Nat) (f : Nat → Nat) : Host.Outcome Block Fault Refusal :=
  match x.readCount i with
  | Option.none => .fault .indexOutOfRange
  | some c =>
    if f c ≤ ceil x.cfg then .next ((x.writeCount i (f c)).respond .ok 0) else .fault .countTooWide

/-- Read the counter an address selects and answer a value made from it: what GETCOUNT and ISSET share. -/
def Block.queryCount (x : Block) (i : Nat) (f : Nat → Nat) : Host.Outcome Block Fault Refusal :=
  match x.readCount i with
  | Option.none => .fault .indexOutOfRange
  | some c => x.answer (f c)

/-- The snapshot a block shows on another's merge-source port (R120): its configuration and counters as they stand. Its
FAULT is not part of it (D12). -/
def Block.snapshot (x : Block) : Peer where
  size := x.cfg.size
  offsetBits := x.cfg.offsetBits
  counterWidth := x.cfg.counterWidth
  threshold := x.cfg.threshold
  maskLsbs := x.cfg.maskLsbs
  maskSizes := x.cfg.maskSizes
  cnt := x.cnt

/-- Block `k` of the system. -/
def State.block? (s : State) (k : Nat) : Option Block := s.blocks[k]?

/-- The system with block `k` replaced. -/
def State.setBlock (s : State) (k : Nat) (x : Block) : State := { s with blocks := s.blocks.set k x }

/-- Run `f` on block `k` and put its result back; no other block is written (R24). -/
def State.onBlock (s : State) (k : Nat) (f : Block → Host.Outcome Block Fault Refusal) :
    Host.Outcome State Fault Refusal :=
  match s.block? k with
  | Option.none => .refused (.noSuchBlock k)
  | some x =>
    match f x with
    | .next y => .next (s.setBlock k y)
    | .fault e => .fault e
    | .refused r => .refused r

/-- The frame of every command (R206): the receiving block is the one the host named; on a halted block the answer is
HALTED whatever the command; on a running block the command's own rule `body` runs. -/
def State.runCommand (s : State) (body : Block → Host.Outcome Block Fault Refusal) :
    Host.Outcome State Fault Refusal :=
  s.onBlock s.rcv fun x => if x.fault = .none then body x else .next x.refuseHalted

end Sys2Proof.Machine
end

