-- ==== Sys2Proof/Machine/Merge.lean ====
section
/-! DEFINITION. The MERGE command and its compatibility predicate (42_merge.md). -/

namespace Sys2Proof.Machine

/-- `compat(CFG, PEER.cfg)` (R121). The lists compare element by element, in order. -/
def compat (c : Config) (p : Peer) : Bool :=
  match c.mergeCheck with
  | .sizeOnly => decide (p.size = c.size)
  | .full =>
    decide (p.size = c.size) && decide (p.counterWidth = c.counterWidth)
      && decide (p.threshold = c.threshold) && decide (p.offsetBits = c.offsetBits)
      && decide (p.maskLsbs = c.maskLsbs) && decide (p.maskSizes = c.maskSizes)

/-- The counters after a merge (R122): `sat_add` slot by slot on the values before the command. -/
def mergeCounts (c : Config) (mine peers : List Nat) : List Nat :=
  List.zipWith (satAdd c) mine peers

/-- MERGE on a running block with a peer snapshot (R122): COMPAT_ERROR when `compat` is false (R204), else all SIZE
counters together. -/
def Block.mergeWith (x : Block) (p : Peer) : Host.Outcome Block Fault Refusal :=
  if compat x.cfg p then
    match x.readAll with
    | Option.none => .fault .arrayShape
    | some mine =>
      if p.cnt.length = x.cfg.size then
        .next ({ x with cnt := mergeCounts x.cfg mine p.cnt }.respond .ok 0)
      else .fault .arrayShape
  else .next (x.raise .compatError)

/-- MERGE (R122). The peer is the block on the merge-source port, which may be the receiving block itself (R124); its
snapshot is taken before anything is written. -/
def execMerge (s : State) : Host.Outcome State Fault Refusal :=
  s.runCommand fun x =>
    match s.block? s.src with
    | Option.none => .refused (.noPeer s.src)
    | some p => x.mergeWith p.snapshot

end Sys2Proof.Machine
end

