-- ==== Sys2Proof/Machine/Operands.lean ====
section
/-! DEFINITION. The one operand form of the block: an address, mapped to a counter index by the address field
extractor with XOR folding (43_address_folding.md R140 to R147). -/

namespace Sys2Proof.Machine

/-- Step 1 (R141): `shifted = addr >> OFFSET_BITS`. -/
def shifted (c : Config) (addr : Nat) : Nat := addr >>> c.offsetBits

/-- Step 2 (R142): `field = (shifted >> lsb) & mask(width)`. -/
def fieldOf (sh : Nat) (m : Nat × Nat) : Nat := (sh >>> m.1) &&& mask m.2

/-- Step 3 (R143): the XOR of the fields, in list order. -/
def foldFields (ms : List (Nat × Nat)) (sh : Nat) : Nat :=
  ms.foldl (fun idx m => idx ^^^ fieldOf sh m) 0

/-- `index(addr)` (R144), for `addr < 2^ADDR_WIDTH` (log entry 17) and mask lists of equal length (log entry 20).
It reads no state (R140); no alignment matters (R44). -/
def index (c : Config) (addr : Nat) : Nat := foldFields (masks c) (shifted c addr)

end Sys2Proof.Machine
end

