-- ==== Sys2Proof/Machine/Query.lean ====
section
/-! DEFINITION. The query commands GETCOUNT, ISSET and GETTOTAL (41_queries.md). -/

namespace Sys2Proof.Machine

/-- GETCOUNT (R100). -/
def execGetCount (addr : Nat) (s : State) : Host.Outcome State Fault Refusal :=
  s.runCommand fun x => x.queryCount (index x.cfg addr) id

/-- ISSET (R101): the threshold comparator's answer in the response. -/
def execIsSet (addr : Nat) (s : State) : Host.Outcome State Fault Refusal :=
  s.runCommand fun x => x.queryCount (index x.cfg addr) (comparator x.cfg)

/-- GETTOTAL (R102): the exact sum of all counters, computed when it executes (R29). -/
def execGetTotal (s : State) : Host.Outcome State Fault Refusal :=
  s.runCommand fun x =>
    match x.readAll with
    | Option.none => .fault .arrayShape
    | some cs => x.answer cs.sum

end Sys2Proof.Machine
end

