-- ==== Sys2Proof/Machine/Reserved.lean ====
section
/-! DEFINITION. The nine reserved opcodes (R62, R65): each takes the fault ILLEGAL_COMMAND (R202). -/

namespace Sys2Proof.Machine

/-- A reserved opcode (R202): fault entry with ILLEGAL_COMMAND on a running block. -/
def State.illegalCommand (s : State) : Host.Outcome State Fault Refusal :=
  s.runCommand fun x => .next (x.raise .illegalCommand)

/-- Opcode 0x0, reserved (R65, R202). -/
def execReserved0 (s : State) : Host.Outcome State Fault Refusal := s.illegalCommand

/-- Opcode 0x8, reserved (R65, R202). -/
def execReserved8 (s : State) : Host.Outcome State Fault Refusal := s.illegalCommand

/-- Opcode 0x9, reserved (R65, R202). -/
def execReserved9 (s : State) : Host.Outcome State Fault Refusal := s.illegalCommand

/-- Opcode 0xA, reserved (R65, R202). -/
def execReservedA (s : State) : Host.Outcome State Fault Refusal := s.illegalCommand

/-- Opcode 0xB, reserved (R65, R202). -/
def execReservedB (s : State) : Host.Outcome State Fault Refusal := s.illegalCommand

/-- Opcode 0xC, reserved (R65, R202). -/
def execReservedC (s : State) : Host.Outcome State Fault Refusal := s.illegalCommand

/-- Opcode 0xD, reserved (R65, R202). -/
def execReservedD (s : State) : Host.Outcome State Fault Refusal := s.illegalCommand

/-- Opcode 0xE, reserved (R65, R202). -/
def execReservedE (s : State) : Host.Outcome State Fault Refusal := s.illegalCommand

/-- Opcode 0xF, reserved (R65, R202). -/
def execReservedF (s : State) : Host.Outcome State Fault Refusal := s.illegalCommand

end Sys2Proof.Machine
end

