-- ==== Sys2Proof/Machine/Update.lean ====
section
/-! DEFINITION. The counter update commands SET, UNSET and CLEAR (40_counter_update.md). -/

namespace Sys2Proof.Machine

/-- SET (R82). -/
def execSet (addr : Nat) (s : State) : Host.Outcome State Fault Refusal :=
  s.runCommand fun x => x.updateCount (index x.cfg addr) (satInc x.cfg)

/-- UNSET (R83): UNSUPPORTED without `HAS_UNSET` (R203). -/
def execUnset (addr : Nat) (s : State) : Host.Outcome State Fault Refusal :=
  s.runCommand fun x =>
    if x.cfg.hasUnset then x.updateCount (index x.cfg addr) satDec else .next (x.raise .unsupported)

/-- CLEAR (R84): every counter 0. FAULT is not written (R233). -/
def execClear (s : State) : Host.Outcome State Fault Refusal :=
  s.runCommand fun x => .next ({ x with cnt := List.replicate x.cfg.size 0 }.respond .ok 0)

end Sys2Proof.Machine
end

