-- ==== Sys2Proof/Machine/Dispatch.lean ====
section
/-! DEFINITION. The meaning of each command, one arm per constructor. -/

namespace Sys2Proof.Machine

def exec (i : Instr) (s : State) : Host.Outcome State Fault Refusal :=
  match i with
  | .set addr => Sys2Proof.Machine.execSet addr s
  | .unset addr => Sys2Proof.Machine.execUnset addr s
  | .getCount addr => Sys2Proof.Machine.execGetCount addr s
  | .isSet addr => Sys2Proof.Machine.execIsSet addr s
  | .getTotal _ => Sys2Proof.Machine.execGetTotal s
  | .clear _ => Sys2Proof.Machine.execClear s
  | .merge _ => Sys2Proof.Machine.execMerge s
  | .reserved0 _ => Sys2Proof.Machine.execReserved0 s
  | .reserved8 _ => Sys2Proof.Machine.execReserved8 s
  | .reserved9 _ => Sys2Proof.Machine.execReserved9 s
  | .reservedA _ => Sys2Proof.Machine.execReservedA s
  | .reservedB _ => Sys2Proof.Machine.execReservedB s
  | .reservedC _ => Sys2Proof.Machine.execReservedC s
  | .reservedD _ => Sys2Proof.Machine.execReservedD s
  | .reservedE _ => Sys2Proof.Machine.execReservedE s
  | .reservedF _ => Sys2Proof.Machine.execReservedF s

end Sys2Proof.Machine
end

