-- ==== Sys2Proof/Decode.lean ====
section
/-! DEFINITION. The decoder and the encoder of command words (30_encoding.md R61 to R66), written from the opcode map
of R62. A word is given as a number, bit 0 its least significant bit (R7). -/

namespace Sys2Proof

/-- `op = CW[3:0]` (R61). -/
def opField (cw : Nat) : Opcode := BitVec.ofNat 4 (Machine.slice cw 3 0)

/-- `addr = CW[CW_WIDTH−1:4]` (R61, R63). -/
def addrField (addrWidth : Nat) (cw : Nat) : Nat :=
  Machine.slice cw (Machine.cwWidth addrWidth - 1) 4

/-- The opcode map of R62, read bit by bit from `op[3]` down to `op[0]`. -/
def instrOfFields (op : Opcode) (addr : Nat) : Instr :=
  match op.getLsbD 3, op.getLsbD 2, op.getLsbD 1, op.getLsbD 0 with
  | false, false, false, false => .reserved0 addr
  | false, false, false, true => .set addr
  | false, false, true, false => .unset addr
  | false, false, true, true => .getCount addr
  | false, true, false, false => .isSet addr
  | false, true, false, true => .getTotal addr
  | false, true, true, false => .clear addr
  | false, true, true, true => .merge addr
  | true, false, false, false => .reserved8 addr
  | true, false, false, true => .reserved9 addr
  | true, false, true, false => .reservedA addr
  | true, false, true, true => .reservedB addr
  | true, true, false, false => .reservedC addr
  | true, true, false, true => .reservedD addr
  | true, true, true, false => .reservedE addr
  | true, true, true, true => .reservedF addr

/-- The decoder, total on every number: a word of `CW_WIDTH` bits is one of the sixteen commands (R66); a larger number
is no command word and is rejected by name (log entry 5). -/
def decode (addrWidth : Nat) (cw : Nat) : Except DecodeError Instr :=
  if cw < 2 ^ Machine.cwWidth addrWidth then
    .ok (instrOfFields (opField cw) (addrField addrWidth cw))
  else
    .error (.notACommandWord cw (Machine.cwWidth addrWidth))

/-- The `op` column of R62 and the `match` column of opcode_table.json. -/
def opcodeOf : Instr → Opcode
  | .reserved0 _ => 0b0000#4
  | .set _ => 0b0001#4
  | .unset _ => 0b0010#4
  | .getCount _ => 0b0011#4
  | .isSet _ => 0b0100#4
  | .getTotal _ => 0b0101#4
  | .clear _ => 0b0110#4
  | .merge _ => 0b0111#4
  | .reserved8 _ => 0b1000#4
  | .reserved9 _ => 0b1001#4
  | .reservedA _ => 0b1010#4
  | .reservedB _ => 0b1011#4
  | .reservedC _ => 0b1100#4
  | .reservedD _ => 0b1101#4
  | .reservedE _ => 0b1110#4
  | .reservedF _ => 0b1111#4

/-- The encoder: `CW = {addr, op} = addr × 16 + op` (R61). -/
def encode (i : Instr) : Nat := i.addr * 16 + (opcodeOf i).toNat

/-- A table word on the command port: the low `CW_WIDTH` of its `nbits` bits. The table numbers its bits as R61 numbers
those of `CW`, so no host packing is undone here (R43). `nbits` counts whole bytes, and the bits above `CW_WIDTH` in the
last byte are no bits of the word (log entry 19, DESIGN CHOICE). -/
def portWord (addrWidth nbits w : Nat) : Nat := w % 2 ^ nbits % 2 ^ Machine.cwWidth addrWidth

/-- The command that the decoder reads from a word of opcode_table.json, whose patterns stand for `ADDR_WIDTH = 16`
(the table's `encoding_note`), the width of `Config.cfgA` too. -/
def decodeTableWord (nbits w : Nat) : Option Instr :=
  (decode Config.cfgA.addrWidth (portWord Config.cfgA.addrWidth nbits w)).toOption

end Sys2Proof
end

