-- ==== Sys2Proof/Machine/HostPort.lean ====
section
/-! DEFINITION. What the host's inputs do before a command executes (R31, R60, R215, R230). -/

namespace Sys2Proof.Machine

/-- Take the first input off the list and set the selections it makes (R31, R215). -/
def State.select (s : State) (rcv src : Nat) (rest : List HostEvent) : State :=
  { s with rcv := rcv, src := src, host := rest }

/-- Reset of one block (R230): it is put into its reset state, whatever it was; no other block is touched (R215). -/
def State.resetBlock (s : State) (k : Nat) : Host.Outcome State Fault Refusal :=
  s.onBlock k fun x => .next x.reset

/-- Read the command word that stands on the port of the receiving block, whose `ADDR_WIDTH` sets the word's width
(R61); a word of another width and a block that does not exist are refused (log entry 5). -/
def State.fetch (s : State) (cw : Nat) : Except Refusal Instr :=
  match s.block? s.rcv with
  | Option.none => .error (.noSuchBlock s.rcv)
  | some x =>
    match decode x.cfg.addrWidth cw with
    | .error _ => .error (.notACommandWord cw)
    | .ok i => .ok i

/-- `s` with a table word as the host's next input, for the block and the peer that `s` selects (log entry 2). -/
def State.withNextWord (s : State) (nbits w : Nat) : State :=
  let width := match s.block? s.rcv with
    | Option.none => Config.cfgA.addrWidth
    | some x => x.cfg.addrWidth
  { s with host := .command s.rcv s.src (portWord width nbits w) :: s.host }

end Sys2Proof.Machine
end

