-- ==== Sys2Proof/Machine/Step.lean ====
section
/-! DEFINITION. One step: the host's next input is taken and acts (R10, R48). -/

namespace Sys2Proof.Machine

/-- One step of the system. A command executes atomically and answers before the next is taken (R45, R60); a reset puts
its block into the reset state (R230). With no input nothing happens: the block has no background activity (R213, R237;
log entry 11, DEDUCED). -/
def step (s : State) : Host.Outcome State Fault Refusal :=
  match s.host with
  | [] => .next s
  | .reset k :: rest => { s with host := rest }.resetBlock k
  | .command k p cw :: rest =>
    match (s.select k p rest).fetch cw with
    | .error r => .refused r
    | .ok i => exec i (s.select k p rest)

/-- `s` with a word of opcode_table.json presented on the command port of the block that `s` selects, as the host's very
next input. The block loads no program (R51): a program is the host's list of inputs (log entry 2). -/
def State.withFetchWord (s : State) (nbits w : Nat) : State := s.withNextWord nbits w

end Sys2Proof.Machine
end

