-- ==== Sys2Proof/Machine/Oracle.lean ====
section
/-! DEFINITION. The OracleFilter of 44_oracle_reference.md (R170 to R175): the collision-free reference to which the
block is compared. It is no part of the block and no part of State (R4, D26; log entry 16, DEDUCED). -/

namespace Sys2Proof.Machine

/-- The oracle (R172). Every counter has 1 bit, so the map is the list of the keys whose counter is 1, strictly rising;
a key that is not listed reads 0. It has the block's status rules (R170), so it has the block's FAULT. R172 has
counters for the addresses below `2^ADDR_WIDTH`; the model's oracle holds no `ADDR_WIDTH` and has a counter for every
natural number (log entry 18, DESIGN CHOICE). -/
structure Oracle where
  hasUnset : Bool
  keys : List Nat
  fault : FaultCode
deriving DecidableEq, Repr

/-- The form in which equal maps are equal lists: the keys at 1, strictly rising (log entry 16). -/
abbrev Oracle.Wf (o : Oracle) : Prop := o.keys.Pairwise (· < ·)

/-- Configuration (R171): SIZE, COUNTER_WIDTH and THRESHOLD are forced to 1; any other value gives no oracle. After
construction every key reads 0 (R172). -/
def Oracle.build (size counterWidth threshold : Nat) (hasUnset : Bool) : Option Oracle :=
  if size = 1 ∧ counterWidth = 1 ∧ threshold = 1 then some ⟨hasUnset, [], .none⟩ else Option.none

/-- Put a key into a strictly rising list, once. -/
def insertKey (a : Nat) : List Nat → List Nat
  | [] => [a]
  | b :: bs => if a < b then a :: b :: bs else if a = b then b :: bs else b :: insertKey a bs

/-- `OCNT[a]` (R172). A number at or above `2^ADDR_WIDTH` is a key like another (log entry 18). -/
def Oracle.count (o : Oracle) (a : Nat) : Nat := if a ∈ o.keys then 1 else 0

/-- The status rules of the block (R170, R206, R208): a halted oracle answers HALTED and changes nothing. -/
def Oracle.guard (o : Oracle) (body : Oracle × Response) : Oracle × Response :=
  if o.fault = .none then body else (o, ⟨.halted, 0⟩)

/-- `set(a)` (R173): saturates at 1. A number at or above `2^ADDR_WIDTH`, for which R172 gives no counter, is taken as a
key of its own and counts in the total (log entry 18, DESIGN CHOICE). -/
def Oracle.set (o : Oracle) (a : Nat) : Oracle × Response :=
  o.guard ({ o with keys := insertKey a o.keys }, ⟨.ok, 0⟩)

/-- `unset(a)` (R173): only with HAS_UNSET, otherwise UNSUPPORTED. -/
def Oracle.unset (o : Oracle) (a : Nat) : Oracle × Response :=
  o.guard (if o.hasUnset then ({ o with keys := o.keys.filter fun b => decide (b ≠ a) }, ⟨.ok, 0⟩)
    else ({ o with fault := .unsupported }, ⟨.unsupported, 0⟩))

/-- `getCount(a)` (R173). -/
def Oracle.getCount (o : Oracle) (a : Nat) : Oracle × Response := o.guard (o, ⟨.ok, o.count a⟩)

/-- `isSet(a)` (R173): the count is at least 1. -/
def Oracle.isSet (o : Oracle) (a : Nat) : Oracle × Response :=
  o.guard (o, ⟨.ok, if 1 ≤ o.count a then 1 else 0⟩)

/-- `getTotalCount()` (R173): the number of keys at 1. -/
def Oracle.getTotalCount (o : Oracle) : Oracle × Response := o.guard (o, ⟨.ok, o.keys.length⟩)

/-- `clear()` (R173). -/
def Oracle.clear (o : Oracle) : Oracle × Response := o.guard ({ o with keys := [] }, ⟨.ok, 0⟩)

/-- `merge(other)` (R174): per key; two oracles have equal size, so the size check passes. A merge with a block cannot
be written: the types differ (D26). -/
def Oracle.merge (o other : Oracle) : Oracle × Response :=
  o.guard ({ o with keys := other.keys.foldr insertKey o.keys }, ⟨.ok, 0⟩)

end Sys2Proof.Machine
end

