-- ==== Sys2Proof/Machine/Boot.lean ====
section
/-! DEFINITION. From configurations to a system that is reset and running (R157, R215, R219, R232). -/

namespace Sys2Proof.Machine

/-- Elaboration and reset of one block (R157, R219, R232): no block exists for an invalid configuration. -/
def elaborate (c : Config) : Except ConfigError Block :=
  match elabError c with
  | some e => .error e
  | none => .ok (Block.atReset c)

/-- Elaboration of the blocks of a system, one after the other. R219 says that an invalid configuration gives no
instance, and nothing of the valid ones beside it; here one invalid configuration refuses the whole system, and the error
of the first such configuration in the list is reported (log entry 21, DESIGN CHOICE). -/
def elaborateAll : List Config → Except ConfigError (List Block)
  | [] => .ok []
  | c :: cs =>
    match elaborate c with
    | .error e => .error e
    | .ok x =>
      match elaborateAll cs with
      | .error e => .error e
      | .ok xs => .ok (x :: xs)

/-- The blocks of one system have the same `ADDR_WIDTH` (D3, R120; log entry 13, DEDUCED). -/
def sameAddrWidth (cs : List Config) : Bool :=
  match cs with
  | [] => true
  | c :: rest => rest.all fun d => decide (d.addrWidth = c.addrWidth)

/-- A system built from configurations, all of them or none (log entry 21), and reset, with the host's inputs
`host` to come (R232, R215). -/
def boot (cs : List Config) (host : List HostEvent) : Except ConfigError State :=
  match elaborateAll cs with
  | .error e => .error e
  | .ok xs =>
    if sameAddrWidth cs then .ok { blocks := xs, rcv := 0, src := 1, host := host }
    else .error .addrWidthsDiffer

end Sys2Proof.Machine
end

