-- ==== Sys2Proof/Safety.lean ====
section
/-! DEFINITION. What a well-formed system is, and what counts as a safe run. -/

namespace Sys2Proof.Machine

/-- What the response port of a well-formed block shows (R68): data that fits `rsp_data`, and 0 unless the status is
OK. -/
abbrev Response.Fits (c : Config) (r : Response) : Prop :=
  r.data < 2 ^ totalWidth c ∧ (r.status ≠ .ok → r.data = 0)

/-- A block that elaboration and the commands can make: a legal configuration (R25, R157), SIZE counters (R21), each at
most CEIL (R22), and a response that fits its port. -/
abbrev Block.Wf (x : Block) : Prop :=
  x.cfg.Legal ∧ x.cnt.length = x.cfg.size ∧ (∀ c ∈ x.cnt, c ≤ ceil x.cfg) ∧
    ∀ r ∈ x.rsp.toList, r.Fits x.cfg

/-- A well-formed system: well-formed blocks with one common `ADDR_WIDTH` (D3, R120). -/
abbrev State.Wf (s : State) : Prop :=
  (∀ x ∈ s.blocks, x.Wf) ∧ ∀ x ∈ s.blocks, ∀ y ∈ s.blocks, x.cfg.addrWidth = y.cfg.addrWidth

/-- The response port and FAULT of a block agree: after a fault entry or a HALTED answer the block is halted with that
cause (R207, R208), after OK it is running (R206). -/
abbrev Block.Agrees (x : Block) : Prop :=
  ∀ r ∈ x.rsp.toList, (r.status = .halted ∧ x.fault ≠ .none) ∨ r.status = x.fault.status

/-- An input that the spec lets the host present (R31, R61, R215): it names blocks of the system and holds a command
word of the receiving block's width. -/
abbrev HostEvent.Legal (s : State) : HostEvent → Prop
  | .reset k => k < s.blocks.length
  | .command k p cw =>
    k < s.blocks.length ∧ p < s.blocks.length ∧
      ∀ x ∈ (s.block? k).toList, cw < 2 ^ cwWidth x.cfg.addrWidth

/-- Every input still to come is one the spec lets the host present. -/
abbrev State.WellDriven (s : State) : Prop := ∀ e ∈ s.host, HostEvent.Legal s e

/-- No run from `s`, however long, stops with a fault of the model. -/
def NeverFaults (s : State) : Prop := ∀ n f, Host.Core.run Sys2Proof.core n s ≠ .fault f

/-- Every run from `s`, however long, goes on: no fault and no refusal. -/
def NeverStops (s : State) : Prop := ∀ n, ∃ t : State, Host.Core.run Sys2Proof.core n s = .next t

end Sys2Proof.Machine
end

