-- ==== Sys2Proof/Certificates/Slice0/Obligations.lean ====
section
/-! DEFINITION. The statements about the model, for the provers. `s.blocks[k]?` is block `k` of the system; the
receiving block of a command is `s.rcv`, the block on its merge-source port `s.src`; `s.setBlock k y` is `s` with block
`k` replaced by `y` and everything else the same.

A statement that does not assume `Wf` speaks also of states that no block can be in; what it says of those is the model's
choice (log entries 6, 20 and 22) and no rule of the spec. -/

open Sys2Proof Sys2Proof.Machine

/-! ### Command words -/

/-- Sample words of 95_test_vectors.md section 2.3 (V-ENC-1 to V-ENC-12), at `ADDR_WIDTH = 16`. -/
def Obligations.DecodeSampleWords : Prop :=
  decode 16 0x00021 = .ok (.set 2) ∧ decode 16 0x00032 = .ok (.unset 3) ∧
  decode 16 0x00023 = .ok (.getCount 2) ∧ decode 16 0x000A4 = .ok (.isSet 10) ∧
  decode 16 0x00005 = .ok (.getTotal 0) ∧ decode 16 0xFFFF5 = .ok (.getTotal 0xFFFF) ∧
  decode 16 0x00006 = .ok (.clear 0) ∧ decode 16 0x00007 = .ok (.merge 0) ∧
  decode 16 0x00000 = .ok (.reserved0 0) ∧ decode 16 0x00059 = .ok (.reserved9 5) ∧
  decode 16 0xFFFFF = .ok (.reservedF 0xFFFF) ∧ decode 16 0x12341 = .ok (.set 0x1234)

/-- R62: the opcode map, for every address width and every address. -/
def Obligations.OpcodeMapDecodes : Prop :=
  ∀ A a : Nat, a < 2 ^ A →
    decode A (a * 16 + 0x0) = .ok (.reserved0 a) ∧ decode A (a * 16 + 0x1) = .ok (.set a) ∧
    decode A (a * 16 + 0x2) = .ok (.unset a) ∧ decode A (a * 16 + 0x3) = .ok (.getCount a) ∧
    decode A (a * 16 + 0x4) = .ok (.isSet a) ∧ decode A (a * 16 + 0x5) = .ok (.getTotal a) ∧
    decode A (a * 16 + 0x6) = .ok (.clear a) ∧ decode A (a * 16 + 0x7) = .ok (.merge a) ∧
    decode A (a * 16 + 0x8) = .ok (.reserved8 a) ∧ decode A (a * 16 + 0x9) = .ok (.reserved9 a) ∧
    decode A (a * 16 + 0xA) = .ok (.reservedA a) ∧ decode A (a * 16 + 0xB) = .ok (.reservedB a) ∧
    decode A (a * 16 + 0xC) = .ok (.reservedC a) ∧ decode A (a * 16 + 0xD) = .ok (.reservedD a) ∧
    decode A (a * 16 + 0xE) = .ok (.reservedE a) ∧ decode A (a * 16 + 0xF) = .ok (.reservedF a)

/-- R61 to R63: a well-formed command fits `CW_WIDTH` bits and decodes to itself, every bit of its address kept. -/
def Obligations.DecodeOfEncode : Prop :=
  ∀ (A : Nat) (i : Instr), i.WellFormed A →
    encode i < 2 ^ (A + 4) ∧ decode A (encode i) = .ok i

/-- R66: the decoder is total on command words, and no two words are one command. -/
def Obligations.EncodeOfDecode : Prop :=
  ∀ A cw : Nat, cw < 2 ^ (A + 4) →
    ∃ i : Instr, decode A cw = .ok i ∧ i.WellFormed A ∧ encode i = cw

/-- The model's choice (log entry 5): inputs that the spec gives the host no way to present are refused by name, and
change nothing: a number that is no word of `CW_WIDTH` bits, a command or a reset for a block that the system does not
have, and a MERGE on a running block with no block on its merge-source port. -/
def Obligations.UnpresentableInputRefused : Prop :=
  ∀ (s : State) (k p cw a : Nat) (rest : List HostEvent),
    (∀ x : Block, s.host = .command k p cw :: rest → s.blocks[k]? = some x →
      2 ^ (x.cfg.addrWidth + 4) ≤ cw →
      decode x.cfg.addrWidth cw = .error (.notACommandWord cw (x.cfg.addrWidth + 4)) ∧
        step s = .refused (.notACommandWord cw)) ∧
    (s.blocks.length ≤ k → s.host = .command k p cw :: rest ∨ s.host = .reset k :: rest →
      step s = .refused (.noSuchBlock k)) ∧
    (∀ x : Block, s.blocks[s.rcv]? = some x → x.fault = .none → s.blocks.length ≤ s.src →
      exec (.merge a) s = .refused (.noPeer s.src))

/-- R64: the commands without an address do not depend on the `addr` field. -/
def Obligations.AddrFieldIgnored : Prop :=
  ∀ (a b : Nat) (s : State),
    exec (.getTotal a) s = exec (.getTotal b) s ∧ exec (.clear a) s = exec (.clear b) s ∧
    exec (.merge a) s = exec (.merge b) s ∧ exec (.reserved0 a) s = exec (.reserved0 b) s ∧
    exec (.reserved8 a) s = exec (.reserved8 b) s ∧ exec (.reserved9 a) s = exec (.reserved9 b) s ∧
    exec (.reservedA a) s = exec (.reservedA b) s ∧ exec (.reservedB a) s = exec (.reservedB b) s ∧
    exec (.reservedC a) s = exec (.reservedC b) s ∧ exec (.reservedD a) s = exec (.reservedD b) s ∧
    exec (.reservedE a) s = exec (.reservedE b) s ∧ exec (.reservedF a) s = exec (.reservedF b) s

/-! ### One step -/

/-- A step runs the decoded command (R10, R48, R61): the host's next command word, decoded at the receiving block's
address width, is executed with that block receiving and the named block on the merge-source port. -/
def Obligations.StepRunsDecodedCommand : Prop :=
  ∀ (s : State) (k p cw : Nat) (rest : List HostEvent) (x : Block) (i : Instr),
    s.host = .command k p cw :: rest → s.blocks[k]? = some x → decode x.cfg.addrWidth cw = .ok i →
    step s = exec i { s with rcv := k, src := p, host := rest }

/-- How a table word comes to run (log entry 2, the model's convention): a word of the receiving block's width placed by
`withFetchWord` is the command that the very next step executes, on the system as it was. -/
def Obligations.PlacedWordRunsNext : Prop :=
  ∀ (s : State) (nbits w : Nat) (x : Block) (i : Instr), s.blocks[s.rcv]? = some x →
    decode x.cfg.addrWidth (w % 2 ^ nbits % 2 ^ (x.cfg.addrWidth + 4)) = .ok i →
    step (s.withFetchWord nbits w) = exec i s

/-- A reset event (R30, R230): the block is in its reset state whatever it was, halted or not, its configuration is
unchanged, and nothing else but the taken event changes. -/
def Obligations.ResetEventResetsBlock : Prop :=
  ∀ (s : State) (k : Nat) (rest : List HostEvent) (x : Block),
    s.host = .reset k :: rest → s.blocks[k]? = some x →
    ∃ t, step s = .next t ∧
      t.blocks[k]? = some ⟨x.cfg, List.replicate x.cfg.size 0, .none, none⟩ ∧
      (∀ j, j ≠ k → t.blocks[j]? = s.blocks[j]?) ∧ t.host = rest ∧ t.rcv = s.rcv ∧ t.src = s.src

/-- A command in progress when reset is asserted (R230, I14; log entry 10): whether it completes first or is discarded
whole, the system after the reset is the same. -/
def Obligations.ResetDiscardsCommand : Prop :=
  ∀ (i : Instr) (s t : State), exec i s = .next t → t.resetBlock s.rcv = s.resetBlock s.rcv

/-- The model's choice (log entry 11): with no input of the host, nothing happens (R213). -/
def Obligations.IdleStepChangesNothing : Prop :=
  ∀ s : State, s.host = [] → step s = .next s

/-! ### Configurations -/

/-- R148 to R156: the nine checks, each as its rule has it. -/
def Obligations.ValidConfigIff : Prop :=
  ∀ c : Config, validate c = none ↔
    1 ≤ c.size ∧
    (1 ≤ c.counterWidth ∧ ∀ b, c.maxCounterWidth = some b → c.counterWidth ≤ b) ∧
    (1 ≤ c.threshold ∧ c.threshold ≤ 2 ^ c.counterWidth - 1) ∧
    c.offsetBits ≤ c.addrWidth ∧
    (1 ≤ c.maskLsbs.length ∧ 1 ≤ c.maskSizes.length) ∧
    c.maskLsbs.length = c.maskSizes.length ∧
    (∀ (j lsb width : Nat), c.maskLsbs[j]? = some lsb → c.maskSizes[j]? = some width →
      lsb + width ≤ c.addrWidth) ∧
    (∀ (j lsb width : Nat), c.maskLsbs[j]? = some lsb → c.maskSizes[j]? = some width →
      2 ^ width ≤ c.size ∧ width ≤ Nat.log2 c.size) ∧
    ∀ b, c.maxMasks = some b → c.maskLsbs.length ≤ b

/-- R157: elaboration reports the first failing check of R148 to R156, in that order. -/
def Obligations.FirstFailingCheckReported : Prop :=
  ∀ c : Config, validate c =
    if ¬ 1 ≤ c.size then some .size
    else if ¬ (1 ≤ c.counterWidth ∧ ∀ b ∈ c.maxCounterWidth.toList, c.counterWidth ≤ b) then some .counterWidth
    else if ¬ (1 ≤ c.threshold ∧ c.threshold ≤ 2 ^ c.counterWidth - 1) then some .threshold
    else if ¬ c.offsetBits ≤ c.addrWidth then some .offset
    else if ¬ (c.maskLsbs ≠ [] ∧ c.maskSizes ≠ []) then some .noMasks
    else if ¬ c.maskLsbs.length = c.maskSizes.length then some .maskIncomplete
    else if ¬ (∀ m ∈ c.maskLsbs.zip c.maskSizes, m.1 + m.2 ≤ c.addrWidth) then some .lsbOutOfRange
    else if ¬ (∀ m ∈ c.maskLsbs.zip c.maskSizes, 2 ^ m.2 ≤ c.size) then some .maskTooLarge
    else if ¬ (∀ b ∈ c.maxMasks.toList, c.maskLsbs.length ≤ b) then some .maskCount
    else none

/-- R157, R219 with R5's own legal-value columns (log entry 3, the model's reading): a configuration elaborates exactly
when it is valid, has an address bit and a latency of at least one cycle, and the block is then in the reset state; an
invalid configuration gives its error and no block. -/
def Obligations.ElaborationYieldsResetBlock : Prop :=
  (∀ (c : Config) (x : Block), elaborate c = .ok x ↔
    (validate c = none ∧ 1 ≤ c.addrWidth ∧ 1 ≤ c.cmdLatency) ∧
      x = ⟨c, List.replicate c.size 0, .none, none⟩) ∧
  ∀ (c : Config) (e : ConfigError), validate c = some e → elaborate c = .error e

/-- R215, R232: a system that boots is well formed, its response ports agree with FAULT, it has the configurations it
was given, and every block is reset. Hence boot gives no system for a list that holds an invalid configuration, which is
the model's choice (log entry 21; ADDR_WIDTH and CMD_LATENCY of 0 with it, log entry 3), nor for one of several
ADDR_WIDTHs, which is its reading of D3 (log entry 13). -/
def Obligations.BootedSystemWellFormed : Prop :=
  ∀ (cs : List Config) (evs : List HostEvent) (s : State), boot cs evs = .ok s →
    s.Wf ∧ (∀ x ∈ s.blocks, x.Agrees) ∧ s.host = evs ∧
      s.blocks = cs.map fun c => ⟨c, List.replicate c.size 0, .none, none⟩

/-! ### The index function -/

/-- R145: under a valid configuration the index of every address is below SIZE; and on an unvalidated one whose index
lies at or above SIZE (I6), a running command that takes the address faults, and neither wraps nor clamps. What the
index is of mask lists of unequal length is the model's choice (log entry 20). -/
def Obligations.IndexBelowSize : Prop :=
  (∀ c : Config, validate c = none → ∀ a : Nat, index c a < c.size) ∧
  ∀ (s : State) (x : Block) (a : Nat), s.blocks[s.rcv]? = some x → x.fault = .none →
    x.cfg.size ≤ index x.cfg a →
    exec (.set a) s = .fault .indexOutOfRange ∧ exec (.getCount a) s = .fault .indexOutOfRange ∧
    exec (.isSet a) s = .fault .indexOutOfRange ∧
    (x.cfg.hasUnset = true → exec (.unset a) s = .fault .indexOutOfRange)

/-- R141 to R143, bit by bit: bit `b` of the index is the parity of the address bits that the masks wider than `b` put
there. For mask lists of unequal length this is the model's choice (log entry 20). -/
def Obligations.IndexBitIsParity : Prop :=
  ∀ (c : Config) (a b : Nat), (index c a).testBit b =
    decide (((c.maskLsbs.zip c.maskSizes).countP fun m =>
      decide (b < m.2) && a.testBit (c.offsetBits + m.1 + b)) % 2 = 1)

/-- R146: the order of the masks does not change the index, and two identical masks cancel. For mask lists of unequal
length this is the model's choice (log entry 20). -/
def Obligations.MaskOrderIrrelevant : Prop :=
  ∀ (c d : Config) (a : Nat), c.offsetBits = d.offsetBits →
    (((c.maskLsbs.zip c.maskSizes).Perm (d.maskLsbs.zip d.maskSizes) → index c a = index d a) ∧
    ∀ m : Nat × Nat, c.maskLsbs.zip c.maskSizes = m :: m :: d.maskLsbs.zip d.maskSizes →
      index c a = index d a)

/-- R44, R141: the addresses of one aligned block of `2 ^ OFFSET_BITS` have one index, and when the offset takes the
whole address every address has index 0. For mask lists of unequal length it is the model's choice (log entry 20). -/
def Obligations.OffsetBitsDropped : Prop :=
  ∀ (c : Config) (a b : Nat),
    (a / 2 ^ c.offsetBits = b / 2 ^ c.offsetBits → index c a = index c b) ∧
    (c.offsetBits = c.addrWidth → a < 2 ^ c.addrWidth → index c a = 0)

/-- The model's choice (log entry 6): on a block that elaboration and the commands cannot make, a running command
faults by name. A counter list of another length than SIZE stops GETTOTAL, and a compatible MERGE from either side; a
count that would stay above CEIL stops UNSET; a count that does not fit `rsp_data` stops GETCOUNT. The index that
names the counter is the model's choice where the mask lists have unequal lengths (log entry 20). -/
def Obligations.MalformedBlockFaults : Prop :=
  ∀ (s : State) (x : Block) (a : Nat), s.blocks[s.rcv]? = some x → x.fault = .none →
    (x.cnt.length ≠ x.cfg.size → exec (.getTotal a) s = .fault .arrayShape) ∧
    (∀ p : Block, s.blocks[s.src]? = some p → compat x.cfg p.snapshot = true →
      x.cnt.length ≠ x.cfg.size ∨ p.cnt.length ≠ x.cfg.size → exec (.merge a) s = .fault .arrayShape) ∧
    ∀ c, index x.cfg a < x.cfg.size → x.cnt[index x.cfg a]? = some c →
      (x.cfg.hasUnset = true → 2 ^ x.cfg.counterWidth < c → exec (.unset a) s = .fault .countTooWide) ∧
      (2 ^ totalWidth x.cfg ≤ c → exec (.getCount a) s = .fault .dataTooWide)

/-- R80, R81, R123: the three saturating operations and the ranges of their results. -/
def Obligations.SaturatingArithmetic : Prop :=
  ∀ c : Config, 1 ≤ c.counterWidth →
    (∀ v, v ≤ 2 ^ c.counterWidth - 1 →
      satInc c v = min (v + 1) (2 ^ c.counterWidth - 1) ∧ 1 ≤ satInc c v ∧
      satInc c v ≤ 2 ^ c.counterWidth - 1) ∧
    satInc c (2 ^ c.counterWidth - 1) = 2 ^ c.counterWidth - 1 ∧
    (∀ v, v ≤ 2 ^ c.counterWidth - 1 →
      (satDec v : Int) = max ((v : Int) - 1) 0 ∧ satDec v ≤ 2 ^ c.counterWidth - 1 - 1) ∧
    satDec 0 = 0 ∧
    ∀ v w, v ≤ 2 ^ c.counterWidth - 1 →
      satAdd c v w = min (v + w) (2 ^ c.counterWidth - 1) ∧ satAdd c v w ≤ 2 ^ c.counterWidth - 1

/-! ### What each command does on a running block -/

/-- SET (R82): the counter the address selects goes up by one, clamped to CEIL; the answer is (OK, 0); nothing else
changes. -/
def Obligations.SetIncrementsCounter : Prop :=
  ∀ (s : State) (x : Block) (a : Nat), s.blocks[s.rcv]? = some x → x.Wf → x.fault = .none →
    ∃ c, x.cnt[index x.cfg a]? = some c ∧
      exec (.set a) s = .next (s.setBlock s.rcv
      { x with cnt := x.cnt.set (index x.cfg a) (min (c + 1) (2 ^ x.cfg.counterWidth - 1)), rsp := some ⟨.ok, 0⟩ })

/-- UNSET with HAS_UNSET (R83): the counter goes down by one, floored at 0; the answer is (OK, 0); nothing else
changes. -/
def Obligations.UnsetDecrementsCounter : Prop :=
  ∀ (s : State) (x : Block) (a : Nat), s.blocks[s.rcv]? = some x → x.Wf → x.fault = .none →
    x.cfg.hasUnset = true →
    ∃ c, x.cnt[index x.cfg a]? = some c ∧
      exec (.unset a) s = .next (s.setBlock s.rcv
      { x with cnt := x.cnt.set (index x.cfg a) (c - 1), rsp := some ⟨.ok, 0⟩ })

/-- UNSET without HAS_UNSET (R203, R207): the fault UNSUPPORTED is taken; only FAULT and the response change. -/
def Obligations.UnsetWithoutCapabilityFaults : Prop :=
  ∀ (s : State) (x : Block) (a : Nat), s.blocks[s.rcv]? = some x → x.fault = .none →
    x.cfg.hasUnset = false →
    exec (.unset a) s = .next (s.setBlock s.rcv
      { x with fault := .unsupported, rsp := some ⟨.unsupported, 0⟩ })

/-- CLEAR (R84): every counter is 0, FAULT is not written, the answer is (OK, 0). -/
def Obligations.ClearZeroesEveryCounter : Prop :=
  ∀ (s : State) (x : Block) (a : Nat), s.blocks[s.rcv]? = some x → x.fault = .none →
    exec (.clear a) s = .next (s.setBlock s.rcv
      { x with cnt := List.replicate x.cfg.size 0, rsp := some ⟨.ok, 0⟩ })

/-- GETCOUNT (R100): the answer is (OK, the counter the address selects); nothing else changes. -/
def Obligations.GetCountReadsCounter : Prop :=
  ∀ (s : State) (x : Block) (a : Nat), s.blocks[s.rcv]? = some x → x.Wf → x.fault = .none →
    ∃ c, x.cnt[index x.cfg a]? = some c ∧
      exec (.getCount a) s = .next (s.setBlock s.rcv
      { x with rsp := some ⟨.ok, c⟩ })

/-- ISSET (R101): the answer is (OK, 1) when the selected counter is at or above THRESHOLD and (OK, 0) otherwise;
nothing else changes. -/
def Obligations.IsSetComparesThreshold : Prop :=
  ∀ (s : State) (x : Block) (a : Nat), s.blocks[s.rcv]? = some x → x.Wf → x.fault = .none →
    ∃ c, x.cnt[index x.cfg a]? = some c ∧
      exec (.isSet a) s = .next (s.setBlock s.rcv
      { x with rsp := some ⟨.ok, if c ≥ x.cfg.threshold then 1 else 0⟩ })

/-- GETTOTAL (R102, R105): the answer is (OK, the exact sum of the counters), which is at most SIZE × CEIL and fits
TOTAL_WIDTH bits; nothing else changes. -/
def Obligations.GetTotalSumsCounters : Prop :=
  ∀ (s : State) (x : Block) (a : Nat), s.blocks[s.rcv]? = some x → x.Wf → x.fault = .none →
    exec (.getTotal a) s = .next (s.setBlock s.rcv
      { x with rsp := some ⟨.ok, x.cnt.sum⟩ }) ∧
      x.cnt.sum ≤ x.cfg.size * (2 ^ x.cfg.counterWidth - 1) ∧
      x.cfg.size * (2 ^ x.cfg.counterWidth - 1) < 2 ^ totalWidth x.cfg

/-- MERGE with a compatible peer (R121, R122, R123): every counter becomes the sum clamped to this block's CEIL; the
peer may be any well-formed block, this one included, halted or not. -/
def Obligations.MergeAddsPeerCounters : Prop :=
  ∀ (s : State) (x p : Block) (a : Nat), s.blocks[s.rcv]? = some x → s.blocks[s.src]? = some p →
    x.Wf → p.Wf → x.fault = .none → p.cfg.size = x.cfg.size →
    (x.cfg.mergeCheck = .full →
      p.cfg.counterWidth = x.cfg.counterWidth ∧ p.cfg.threshold = x.cfg.threshold ∧
      p.cfg.offsetBits = x.cfg.offsetBits ∧ p.cfg.maskLsbs = x.cfg.maskLsbs ∧
      p.cfg.maskSizes = x.cfg.maskSizes) →
    exec (.merge a) s = .next (s.setBlock s.rcv
      { x with cnt := List.zipWith (fun u v => min (u + v) (2 ^ x.cfg.counterWidth - 1)) x.cnt p.cnt, rsp := some ⟨.ok, 0⟩ })

/-- MERGE under FULL with a peer of another configuration (R121, R204): the fault COMPAT_ERROR is taken; no counter
changes. -/
def Obligations.MergeFullCheckFaults : Prop :=
  ∀ (s : State) (x p : Block) (a : Nat), s.blocks[s.rcv]? = some x → s.blocks[s.src]? = some p →
    x.fault = .none → x.cfg.mergeCheck = .full →
    (p.cfg.size ≠ x.cfg.size ∨ p.cfg.counterWidth ≠ x.cfg.counterWidth ∨
      p.cfg.threshold ≠ x.cfg.threshold ∨ p.cfg.offsetBits ≠ x.cfg.offsetBits ∨
      p.cfg.maskLsbs ≠ x.cfg.maskLsbs ∨ p.cfg.maskSizes ≠ x.cfg.maskSizes) →
    exec (.merge a) s = .next (s.setBlock s.rcv
      { x with fault := .compatError, rsp := some ⟨.compatError, 0⟩ })

/-- R127: a MERGE with a peer of another SIZE raises COMPAT_ERROR and changes no counter, under either setting of
MERGE_CHECK. -/
def Obligations.SizeMismatchAlwaysFaults : Prop :=
  ∀ (s : State) (x p : Block) (a : Nat), s.blocks[s.rcv]? = some x → s.blocks[s.src]? = some p →
    x.fault = .none → p.cfg.size ≠ x.cfg.size →
    exec (.merge a) s = .next (s.setBlock s.rcv
      { x with fault := .compatError, rsp := some ⟨.compatError, 0⟩ })

/-- The nine reserved opcodes (R202, R207): the fault ILLEGAL_COMMAND is taken whatever the `addr` field; only FAULT
and the response change. -/
def Obligations.ReservedOpcodesFault : Prop :=
  ∀ (s : State) (x : Block) (a : Nat) (i : Instr), s.blocks[s.rcv]? = some x → x.fault = .none →
    (i = .reserved0 a ∨ i = .reserved8 a ∨ i = .reserved9 a ∨ i = .reservedA a ∨ i = .reservedB a ∨
      i = .reservedC a ∨ i = .reservedD a ∨ i = .reservedE a ∨ i = .reservedF a) →
    exec i s = .next (s.setBlock s.rcv
      { x with fault := .illegalCommand, rsp := some ⟨.illegalCommand, 0⟩ })

/-- R208: on a halted block every command, whichever it is, is answered (HALTED, 0) and changes nothing. -/
def Obligations.HaltedBlockAnswersHalted : Prop :=
  ∀ (s : State) (x : Block) (i : Instr), s.blocks[s.rcv]? = some x → x.fault ≠ .none →
    exec i s = .next (s.setBlock s.rcv
      { x with rsp := some ⟨.halted, 0⟩ })

/-! ### What commands leave alone -/

/-- R24: whatever the command, no block but the receiving one changes (a merge's peer among them), the number of blocks
stays, and the host's inputs and selections stay. -/
def Obligations.OtherBlocksUntouched : Prop :=
  ∀ (i : Instr) (s t : State), exec i s = .next t →
    (∀ j, j ≠ s.rcv → t.blocks[j]? = s.blocks[j]?) ∧ t.blocks.length = s.blocks.length ∧
      t.rcv = s.rcv ∧ t.src = s.src ∧ t.host = s.host

/-- Frame of SET and UNSET (R23, R82, R83): only the counter at the address's index may change; the configuration
stays; SET never writes FAULT, and UNSET writes it only on a running block without HAS_UNSET, and then no counter. Which
counter the index names under mask lists of unequal length is the model's choice (log entry 20). -/
def Obligations.SetUnsetFrame : Prop :=
  ∀ (s t : State) (x : Block) (a : Nat), s.blocks[s.rcv]? = some x →
    (exec (.set a) s = .next t → ∃ y, t.blocks[s.rcv]? = some y ∧ y.cfg = x.cfg ∧ y.fault = x.fault ∧
      y.cnt.length = x.cnt.length ∧ ∀ j, j ≠ index x.cfg a → y.cnt[j]? = x.cnt[j]?) ∧
    (exec (.unset a) s = .next t → ∃ y, t.blocks[s.rcv]? = some y ∧ y.cfg = x.cfg ∧
      y.cnt.length = x.cnt.length ∧ (∀ j, j ≠ index x.cfg a → y.cnt[j]? = x.cnt[j]?) ∧
      (x.cfg.hasUnset = true ∨ x.fault ≠ .none → y.fault = x.fault) ∧
      (x.cfg.hasUnset = false → y.cnt = x.cnt))

/-- R103: GETCOUNT, ISSET and GETTOTAL change no state (only what the response port shows), and repeating one gives the
same response. -/
def Obligations.QueriesChangeNothing : Prop :=
  ∀ (s t : State) (x : Block) (a : Nat) (i : Instr), s.blocks[s.rcv]? = some x →
    (i = .getCount a ∨ i = .isSet a ∨ i = .getTotal a) → exec i s = .next t →
    (∃ r, t = s.setBlock s.rcv { x with rsp := some r }) ∧ exec i t = .next t

/-- Frame of CLEAR, MERGE and the reserved opcodes (R23, R84, R122, R207): none changes the configuration or the number
of counters under the array invariant; CLEAR does not write FAULT; a reserved opcode writes no counter; a MERGE that
writes FAULT writes no counter. -/
def Obligations.ClearMergeReservedFrame : Prop :=
  ∀ (s t : State) (x : Block) (a : Nat), s.blocks[s.rcv]? = some x → x.cnt.length = x.cfg.size →
    (exec (.clear a) s = .next t → ∃ y, t.blocks[s.rcv]? = some y ∧ y.cfg = x.cfg ∧ y.fault = x.fault ∧
      y.cnt.length = x.cnt.length) ∧
    (exec (.merge a) s = .next t → ∃ y, t.blocks[s.rcv]? = some y ∧ y.cfg = x.cfg ∧
      y.cnt.length = x.cnt.length ∧ (y.fault ≠ x.fault → y.cnt = x.cnt)) ∧
    ∀ i : Instr, (i = .reserved0 a ∨ i = .reserved8 a ∨ i = .reserved9 a ∨ i = .reservedA a ∨
      i = .reservedB a ∨ i = .reservedC a ∨ i = .reservedD a ∨ i = .reservedE a ∨ i = .reservedF a) →
      exec i s = .next t → ∃ y, t.blocks[s.rcv]? = some y ∧ y.cfg = x.cfg ∧ y.cnt = x.cnt

/-! ### The whole machine -/

/-- R25: no step changes any configuration. -/
def Obligations.ConfigurationNeverChanges : Prop :=
  ∀ s t : State, step s = .next t → t.blocks.map (·.cfg) = s.blocks.map (·.cfg)

/-- R208 to R210: a halted block keeps its fault code and its counters through every step but its own reset, which alone
makes it running again. -/
def Obligations.FaultIsSticky : Prop :=
  ∀ (s t : State) (k : Nat) (x : Block), step s = .next t → s.blocks[k]? = some x → x.fault ≠ .none →
    ∃ y, t.blocks[k]? = some y ∧
      ((y.fault = x.fault ∧ y.cnt = x.cnt) ∨ (y.fault = .none ∧ ∃ rest, s.host = .reset k :: rest))

/-- R200 to R207: a running block is halted by a command only for one of the three causes, with that cause's code, its
counters and configuration as they were and the code as the answer. -/
def Obligations.OnlyThreeCausesHalt : Prop :=
  ∀ (i : Instr) (s t : State) (x y : Block), exec i s = .next t →
    s.blocks[s.rcv]? = some x → t.blocks[s.rcv]? = some y → x.fault = .none → y.fault ≠ .none →
    y.cnt = x.cnt ∧ y.cfg = x.cfg ∧ y.rsp = some ⟨y.fault.status, 0⟩ ∧
      ((y.fault = .illegalCommand ∧ ((opcodeOf i).toNat = 0 ∨ 8 ≤ (opcodeOf i).toNat)) ∨
       (y.fault = .unsupported ∧ x.cfg.hasUnset = false ∧ ∃ a, i = .unset a) ∨
       (y.fault = .compatError ∧ (∃ a, i = .merge a) ∧
         ∃ p, s.blocks[s.src]? = some p ∧ compat x.cfg p.snapshot = false))

/-- R22, R86: every step keeps a system well formed, so every counter stays at most CEIL, every array keeps its length,
and every response fits its port. -/
def Obligations.StepKeepsWellFormed : Prop :=
  ∀ s t : State, s.Wf → step s = .next t → t.Wf

/-- The reset system is well formed, and its response ports agree with FAULT: both invariants that the steps keep hold
at reset. Its configuration and number of blocks are the model's choice (log entry 1). -/
def Obligations.ResetIsWellFormed : Prop := State.reset.Wf ∧ ∀ x ∈ State.reset.blocks, x.Agrees

/-- No run of a well-formed system, whatever the host presents, reaches a fault of the model. These stops are the
model's choice (log entry 6) and none of the block's own faults; that an index never reaches one is R145, and that a
block has no fault but its own three is R205. -/
def Obligations.WellFormedNeverFaults : Prop :=
  ∀ s : State, s.Wf → NeverFaults s

/-- R53, R237: on a well-formed system, whatever commands and resets the host presents within its interface, the
machine goes on for ever: no command waits, and no run stops. Past the end of the host's list it goes on by the model's
idle step (log entry 11). -/
def Obligations.WellDrivenNeverStops : Prop :=
  ∀ s : State, s.Wf → s.WellDriven → NeverStops s

/-- R207, R208: every step keeps the response port and FAULT of every block in agreement, and blocks in the reset state,
with no response pending, agree. -/
def Obligations.StepKeepsPortAgreement : Prop :=
  (∀ s t : State, (∀ x ∈ s.blocks, x.Agrees) → step s = .next t → ∀ x ∈ t.blocks, x.Agrees) ∧
  ∀ s : State, (∀ x ∈ s.blocks, ∃ c, x = Block.atReset c) → ∀ x ∈ s.blocks, x.Agrees

/-- R67, with the zero data of R68 and the HALTED of R208: every accepted command leaves one response. On a halted
block its status is HALTED; on a running block it is the code of the fault that ends the command, and OK when none
does. Its data is 0 unless it is a query that completes. -/
def Obligations.OneResponsePerCommand : Prop :=
  ∀ (i : Instr) (s t : State) (x : Block), exec i s = .next t → s.blocks[s.rcv]? = some x →
    ∃ (y : Block) (r : Response), t.blocks[s.rcv]? = some y ∧ y.rsp = some r ∧
      (x.fault ≠ .none → r.status = .halted ∧ y.fault = x.fault) ∧
      (x.fault = .none → r.status = y.fault.status) ∧
      (y.fault ≠ x.fault → r.status = y.fault.status) ∧
      (r.data ≠ 0 → r.status = .ok ∧ ∃ a, i = .getCount a ∨ i = .isSet a ∨ i = .getTotal a)

/-! ### Consequences -/

/-- R104: ISSET answers 1 exactly when GETCOUNT answers at least THRESHOLD. -/
def Obligations.IsSetAgreesWithGetCount : Prop :=
  ∀ (s : State) (x : Block) (a : Nat), s.blocks[s.rcv]? = some x → x.Wf → x.fault = .none →
    ∃ (t u : State) (y z : Block) (n : Nat), exec (.getCount a) s = .next t ∧ t.blocks[s.rcv]? = some y ∧
      y.rsp = some ⟨.ok, n⟩ ∧ exec (.isSet a) s = .next u ∧ u.blocks[s.rcv]? = some z ∧
      (z.rsp = some ⟨.ok, 1⟩ ↔ x.cfg.threshold ≤ n) ∧ (z.rsp = some ⟨.ok, 0⟩ ↔ n < x.cfg.threshold)

/-- R104's example: with THRESHOLD 2 and a zero counter, one SET does not make ISSET answer 1 and a second one does. -/
def Obligations.SecondSetReachesThreshold : Prop :=
  ∀ (s : State) (x : Block) (a : Nat), s.blocks[s.rcv]? = some x → x.Wf → x.fault = .none →
    x.cfg.threshold = 2 → x.cnt[index x.cfg a]? = some 0 →
    ∃ (s1 s2 t1 t2 : State) (y z : Block), exec (.set a) s = .next s1 ∧ exec (.isSet a) s1 = .next t1 ∧
      t1.blocks[s.rcv]? = some y ∧ y.rsp = some ⟨.ok, 0⟩ ∧ exec (.set a) s1 = .next s2 ∧
      exec (.isSet a) s2 = .next t2 ∧ t2.blocks[s.rcv]? = some z ∧ z.rsp = some ⟨.ok, 1⟩

/-- R48, R146, R234: a GETCOUNT right after a SET of an address with the same index sees the incremented count. -/
def Obligations.GetCountSeesSet : Prop :=
  ∀ (s : State) (x : Block) (a b : Nat), s.blocks[s.rcv]? = some x → x.Wf → x.fault = .none →
    index x.cfg a = index x.cfg b →
    ∃ (c : Nat) (t u : State) (y : Block), x.cnt[index x.cfg b]? = some c ∧ exec (.set a) s = .next t ∧
      exec (.getCount b) t = .next u ∧ u.blocks[s.rcv]? = some y ∧
      y.rsp = some ⟨.ok, min (c + 1) (2 ^ x.cfg.counterWidth - 1)⟩

/-- R85: for colliding addresses `a` and `b`, SET a then UNSET b leaves the counter as it was below CEIL and at CEIL − 1
from CEIL; no other counter changes. -/
def Obligations.UnsetOfCollidingAddress : Prop :=
  ∀ (s : State) (x : Block) (a b c : Nat), s.blocks[s.rcv]? = some x → x.Wf → x.fault = .none →
    x.cfg.hasUnset = true → index x.cfg a = index x.cfg b → x.cnt[index x.cfg a]? = some c →
    ∃ (t u : State) (y : Block), exec (.set a) s = .next t ∧ exec (.unset b) t = .next u ∧
      u.blocks[s.rcv]? = some y ∧
      y.cnt = x.cnt.set (index x.cfg a)
        (if c < 2 ^ x.cfg.counterWidth - 1 then c else 2 ^ x.cfg.counterWidth - 1 - 1)

/-- R124: a block that merges itself doubles every counter with saturation, under either setting of MERGE_CHECK; and a
peer that is another block is unchanged by the merge. -/
def Obligations.SelfMergeDoubles : Prop :=
  (∀ (s : State) (x : Block) (a : Nat), s.blocks[s.rcv]? = some x → s.src = s.rcv → x.Wf →
    x.fault = .none →
    exec (.merge a) s = .next (s.setBlock s.rcv
      { x with cnt := x.cnt.map fun c => min (2 * c) (2 ^ x.cfg.counterWidth - 1), rsp := some ⟨.ok, 0⟩ })) ∧
  ∀ (s t : State) (a : Nat), s.src ≠ s.rcv → exec (.merge a) s = .next t →
    t.blocks[s.src]? = s.blocks[s.src]?

/-- R125: two blocks of equal SIZE and COUNTER_WIDTH that merge each other from the same state would hold the same
counters. -/
def Obligations.MergeIsSymmetric : Prop :=
  ∀ (s t u : State) (x y x' y' : Block) (a b : Nat), s.blocks[s.rcv]? = some x →
    s.blocks[s.src]? = some y → x.cfg.size = y.cfg.size → x.cfg.counterWidth = y.cfg.counterWidth →
    exec (.merge a) s = .next t → exec (.merge b) { s with rcv := s.src, src := s.rcv } = .next u →
    t.blocks[s.rcv]? = some x' → u.blocks[s.src]? = some y' →
    x'.rsp = some ⟨.ok, 0⟩ → y'.rsp = some ⟨.ok, 0⟩ → x'.cnt = y'.cnt

/-- R126: the total after a successful merge is the sum of the clamped sums, which is at most the two totals together,
and equal to them exactly when no slot clamps; GETTOTAL then reports it. -/
def Obligations.TotalAfterMerge : Prop :=
  ∀ (s t : State) (x p y : Block) (a : Nat), s.blocks[s.rcv]? = some x → s.blocks[s.src]? = some p →
    x.Wf → p.Wf → exec (.merge a) s = .next t → t.blocks[s.rcv]? = some y → y.rsp = some ⟨.ok, 0⟩ →
    y.cnt.sum = (List.zipWith (fun u v => min (u + v) (2 ^ x.cfg.counterWidth - 1)) x.cnt p.cnt).sum ∧
    y.cnt.sum ≤ x.cnt.sum + p.cnt.sum ∧
    (y.cnt.sum = x.cnt.sum + p.cnt.sum ↔
      ∀ (i u v : Nat), x.cnt[i]? = some u → p.cnt[i]? = some v → u + v ≤ 2 ^ x.cfg.counterWidth - 1) ∧
    ∃ (w : State) (z : Block), exec (.getTotal 0) t = .next w ∧ w.blocks[s.rcv]? = some z ∧
      z.rsp = some ⟨.ok, y.cnt.sum⟩

/-- R87, run through the step function: from all zeros, after a list of SETs each counter holds the number of those
addresses that hash to it, clamped to CEIL. -/
def Obligations.CountsAfterSets : Prop :=
  ∀ (s : State) (k p : Nat) (x : Block) (as : List Nat), s.blocks[k]? = some x → x.Wf → x.fault = .none →
    (∀ c ∈ x.cnt, c = 0) → (∀ a ∈ as, a < 2 ^ x.cfg.addrWidth) →
    s.host = as.map (fun a => .command k p (encode (.set a))) →
    ∃ (t : State) (y : Block), Host.Core.run Sys2Proof.core as.length s = .next t ∧
      t.blocks[k]? = some y ∧ y.fault = .none ∧ y.cnt.length = x.cfg.size ∧
      ∀ i, i < x.cfg.size → y.cnt[i]? =
        some (min (as.countP fun a => decide (index x.cfg a = i)) (2 ^ x.cfg.counterWidth - 1))

/-- R147: with masks of at most `m` bits the indices at and above `2 ^ m` are never reached, and the counters there
stay 0 through every command but MERGE. For mask lists of unequal length, whose incomplete masks the bound does not
look at, it is the model's choice (log entry 20). -/
def Obligations.UnreachedCountersStayZero : Prop :=
  ∀ (i : Instr) (s t : State) (x y : Block) (m : Nat), exec i s = .next t → s.blocks[s.rcv]? = some x →
    t.blocks[s.rcv]? = some y → (∀ q ∈ x.cfg.maskLsbs.zip x.cfg.maskSizes, q.2 ≤ m) →
    (∀ a, i ≠ .merge a) → (∀ j c, 2 ^ m ≤ j → x.cnt[j]? = some c → c = 0) →
    (∀ a, index x.cfg a < 2 ^ m) ∧ ∀ j c, 2 ^ m ≤ j → y.cnt[j]? = some c → c = 0

/-! ### Numbers and reset values -/

/-- R26, R69, R211: the numbers of FAULT and of rsp_status, which agree on the fault codes, the status values 5 to 7
that are never returned, and the output `fault_o`. -/
def Obligations.CodesAndFaultOutput : Prop :=
  (FaultCode.code .none = 0 ∧ FaultCode.code .illegalCommand = 1 ∧ FaultCode.code .unsupported = 2 ∧
    FaultCode.code .compatError = 3) ∧
  (Status.code .ok = 0 ∧ Status.code .illegalCommand = 1 ∧ Status.code .unsupported = 2 ∧
    Status.code .compatError = 3 ∧ Status.code .halted = 4) ∧
  (∀ f : FaultCode, f.status.code.toNat = f.code.toNat) ∧
  (∀ st : Status, st.code.toNat ≤ 4) ∧
  ∀ x : Block, x.faultO = true ↔ x.fault.code ≠ 0

/-- R30: the reset state of a block of any configuration, and every block of State.reset is in it. The configuration and
the number of blocks of State.reset are the model's choice (log entry 1). -/
def Obligations.ResetValues : Prop :=
  (∀ c : Config, (Block.atReset c).cfg = c ∧ (Block.atReset c).cnt.length = c.size ∧
    (∀ v ∈ (Block.atReset c).cnt, v = 0) ∧ (Block.atReset c).fault.code = 0 ∧
    (Block.atReset c).faultO = false ∧ (Block.atReset c).rsp = none) ∧
  ∀ x ∈ State.reset.blocks, ∃ c, x = Block.atReset c

/-! ### The reference model outside the block (44_oracle_reference.md) -/

/-- R173, R175: each operation of a running oracle, its response and every key it leaves. `set(a)` puts key `a` at 1 and
changes no other key, so `getCount(b)` answers the same after it for every other `b`, and a second `set(a)` changes
nothing; the total is the sum of the counts over any range that holds the keys at 1. No operation but an `unset` that is
not implemented writes the oracle's FAULT (log entry 16), and each keeps the form of the map. Keys at or above
`2^ADDR_WIDTH` are the model's choice (log entry 18). -/
def Obligations.OracleIsExact : Prop :=
  (∀ (o : Oracle) (a b : Nat), o.fault = .none →
    ((o.set a).2 = ⟨.ok, 0⟩ ∧ (o.set a).1.fault = .none ∧ (o.set a).1.hasUnset = o.hasUnset ∧
      (o.set a).1.count b = (if b = a then min (o.count b + 1) 1 else o.count b) ∧
      (o.set a).1.getCount b = ((o.set a).1, ⟨.ok, if b = a then 1 else o.count b⟩) ∧
      (o.set a).1.set a = ((o.set a).1, ⟨.ok, 0⟩)) ∧
    o.getCount b = (o, ⟨.ok, o.count b⟩) ∧
    o.isSet b = (o, ⟨.ok, if o.count b ≥ 1 then 1 else 0⟩) ∧
    (o.Wf → ∀ N, (∀ k, N ≤ k → o.count k = 0) →
      o.getTotalCount = (o, ⟨.ok, ((List.range N).map o.count).sum⟩)) ∧
    (o.hasUnset = true → (o.unset a).2 = ⟨.ok, 0⟩ ∧ (o.unset a).1.fault = .none ∧
      (o.unset a).1.hasUnset = true ∧
      ((o.unset a).1.count b : Int) = if b = a then max ((o.count b : Int) - 1) 0 else (o.count b : Int)) ∧
    (o.hasUnset = false → (o.unset a).2 = ⟨.unsupported, 0⟩ ∧ (o.unset a).1.count b = o.count b) ∧
    (o.clear.2 = ⟨.ok, 0⟩ ∧ o.clear.1.fault = .none ∧ o.clear.1.hasUnset = o.hasUnset ∧
      o.clear.1.count b = 0) ∧
    (o.Wf → (o.set a).1.Wf ∧ (o.unset a).1.Wf ∧ o.clear.1.Wf)) ∧
  ∀ (u : Bool) (o : Oracle) (a : Nat), Oracle.build 1 1 1 u = some o →
    o.Wf ∧ o.fault = .none ∧ o.hasUnset = u ∧ (∀ b, o.count b = 0) ∧
      ((o.set a).1.set a).1.getTotalCount.2 = ⟨.ok, 1⟩

/-- R174: a merge of running oracles is `min(sum, 1)` key by key; the answer is (OK, 0), and FAULT, HAS_UNSET and the
form of the map are kept. A key at or above `2^ADDR_WIDTH` is the model's choice (log entry 18). -/
def Obligations.OracleMergeIsPerKey : Prop :=
  ∀ (o p : Oracle) (a : Nat), o.fault = .none →
    (o.merge p).1.count a = min (o.count a + p.count a) 1 ∧ (o.merge p).2 = ⟨.ok, 0⟩ ∧
      (o.merge p).1.fault = .none ∧ (o.merge p).1.hasUnset = o.hasUnset ∧ (o.Wf → (o.merge p).1.Wf)

/-- Against the reference (R170, R87): after the same SETs from the all-zero state, the block's count of an address is
never below the oracle's, so the block reports no count of 0 for an address that was set. A number asked about that is
no address of the block is the model's choice on both sides (log entries 17 and 18). -/
def Obligations.BlockCountsAtLeastOracle : Prop :=
  ∀ (s : State) (k p : Nat) (x : Block) (as : List Nat) (o : Oracle), s.blocks[k]? = some x → x.Wf →
    x.fault = .none → (∀ c ∈ x.cnt, c = 0) → (∀ a ∈ as, a < 2 ^ x.cfg.addrWidth) →
    s.host = as.map (fun a => .command k p (encode (.set a))) →
    Oracle.build 1 1 1 true = some o →
    ∃ (t : State) (y : Block), Host.Core.run Sys2Proof.core as.length s = .next t ∧
      t.blocks[k]? = some y ∧ ∀ a, ∃ c, y.cnt[index x.cfg a]? = some c ∧
        (as.foldl (fun q b => (q.set b).1) o).count a ≤ c
end

