-- ==== Sys2Proof/Laws/Arith.lean ====
section
/-! SUPPORT. The arithmetic of the block: what the saturating operations, the slices, the widths and the comparator
compute, each said once. -/

namespace Sys2Proof.Machine

/-- `bitlen` is a width that holds the number (R6). -/
theorem lt_two_pow_bitlen (n : Nat) : n < 2 ^ bitlen n := by
  unfold bitlen
  split
  · simp_all
  · exact Nat.lt_log2_self

/-- Every value up to the largest total fits `rsp_data` (R68, R105). -/
theorem lt_two_pow_totalWidth {c : Config} {v : Nat} (h : v ≤ c.size * ceil c) :
    v < 2 ^ totalWidth c :=
  calc v ≤ c.size * ceil c := h
    _ < 2 ^ bitlen (c.size * ceil c) := lt_two_pow_bitlen _
    _ ≤ 2 ^ totalWidth c := Nat.pow_le_pow_right (by decide) (Nat.le_max_right _ _)

/-- What `zext` answers (R8): the value itself, when it fits. -/
theorem zext_eq_some {n v d : Nat} : zext n v = some d ↔ v < 2 ^ n ∧ d = v := by
  unfold zext
  split <;> simp_all [eq_comm]

theorem satInc_le_ceil (cfg : Config) (c : Nat) : satInc cfg c ≤ ceil cfg := Nat.min_le_right _ _

theorem satAdd_le_ceil (cfg : Config) (a b : Nat) : satAdd cfg a b ≤ ceil cfg := Nat.min_le_right _ _

/-- The integer floor of R81 is subtraction of naturals. -/
theorem satDec_eq (c : Nat) : satDec c = c - 1 := by
  unfold satDec
  omega

theorem satDec_le_ceil {cfg : Config} {c : Nat} (h : c ≤ ceil cfg) : satDec c ≤ ceil cfg := by
  rw [satDec_eq]
  omega

/-- A field is below its mask's power of two (R142). -/
theorem fieldOf_lt (sh : Nat) (m : Nat × Nat) : fieldOf sh m < 2 ^ m.2 := by
  have h : fieldOf sh m ≤ mask m.2 := Nat.and_le_right
  have : 0 < 2 ^ m.2 := Nat.two_pow_pos _
  unfold mask at h
  omega

/-- The comparator's answer is 0 or 1 (R101). -/
theorem comparator_le_one (c : Config) (v : Nat) : comparator c v ≤ 1 := by
  unfold comparator
  split <;> decide

/-- What the compatibility check asks for (R121): equal SIZE always, everything else under FULL. -/
theorem compat_iff {c : Config} {p : Peer} : compat c p = true ↔
    p.size = c.size ∧ (c.mergeCheck = .full →
      p.counterWidth = c.counterWidth ∧ p.threshold = c.threshold ∧ p.offsetBits = c.offsetBits ∧
      p.maskLsbs = c.maskLsbs ∧ p.maskSizes = c.maskSizes) := by
  unfold compat
  cases c.mergeCheck <;> simp [and_assoc]

@[simp] theorem mergeCounts_length (c : Config) (a b : List Nat) :
    (mergeCounts c a b).length = min a.length b.length := by
  simp [mergeCounts]

/-- A merge leaves every counter at most CEIL, whatever the peer's counters (R123). -/
theorem mergeCounts_le_ceil (c : Config) (a b : List Nat) : ∀ v ∈ mergeCounts c a b, v ≤ ceil c := by
  intro v hv
  obtain ⟨i, hi, rfl⟩ := List.mem_iff_getElem.mp hv
  simp only [mergeCounts, List.getElem_zipWith]
  exact satAdd_le_ceil ..

end Sys2Proof.Machine
end

