-- ==== Sys2Proof/Laws/Config.lean ====
section
/-! SUPPORT. Each configuration check as a proposition (R148 to R156), and when a list of checks passes. -/

namespace Sys2Proof.Machine

theorem withinBound_iff {v : Nat} {o : Option Nat} : withinBound v o = true ↔ ∀ b, o = some b → v ≤ b := by
  cases o <;> simp [withinBound]

theorem checkSize_iff {c : Config} : checkSize c = true ↔ 1 ≤ c.size := by
  simp [checkSize]

theorem checkCounterWidth_iff {c : Config} : checkCounterWidth c = true ↔
    1 ≤ c.counterWidth ∧ ∀ b, c.maxCounterWidth = some b → c.counterWidth ≤ b := by
  simp [checkCounterWidth, withinBound_iff]

theorem checkThreshold_iff {c : Config} : checkThreshold c = true ↔ 1 ≤ c.threshold ∧ c.threshold ≤ ceil c := by
  simp [checkThreshold]

theorem checkOffset_iff {c : Config} : checkOffset c = true ↔ c.offsetBits ≤ c.addrWidth := by
  simp [checkOffset]

theorem checkSomeMask_iff {c : Config} : checkSomeMask c = true ↔
    1 ≤ c.maskLsbs.length ∧ 1 ≤ c.maskSizes.length := by
  simp [checkSomeMask]

theorem checkMaskComplete_iff {c : Config} : checkMaskComplete c = true ↔
    c.maskLsbs.length = c.maskSizes.length := by
  simp [checkMaskComplete]

theorem checkLsbRange_iff {c : Config} : checkLsbRange c = true ↔
    ∀ m ∈ masks c, m.1 + m.2 ≤ c.addrWidth := by
  simp only [checkLsbRange, List.all_eq_true, decide_eq_true_eq]

theorem checkMaskWidth_iff {c : Config} : checkMaskWidth c = true ↔ ∀ m ∈ masks c, 2 ^ m.2 ≤ c.size := by
  simp only [checkMaskWidth, List.all_eq_true, decide_eq_true_eq]

theorem checkMaskCount_iff {c : Config} : checkMaskCount c = true ↔
    ∀ b, c.maxMasks = some b → numMasks c ≤ b := by
  simp [checkMaskCount, withinBound_iff]

/-- A list of checks reports nothing exactly when every check passes. -/
theorem firstFailing_eq_none {l : List (ConfigError × Bool)} :
    firstFailing l = none ↔ ∀ p ∈ l, p.2 = true := by
  simp [firstFailing, List.find?_eq_none]

/-- One check in front of others: its name if it fails, else what the others report. -/
theorem firstFailing_cons {P : Prop} [Decidable P] {b : Bool} {e : ConfigError}
    {l : List (ConfigError × Bool)} (h : b = true ↔ P) :
    firstFailing ((e, b) :: l) = if P then firstFailing l else some e := by
  cases b <;> simp_all [firstFailing]

end Sys2Proof.Machine
end

