-- ==== Sys2Proof/Laws/State.lean ====
section
/-! SUPPORT. One lemma per field per update of Block and State, so that later proofs unfold no record update. -/

namespace Sys2Proof.Machine

section Respond
variable (x : Block) (st : Status) (d : Nat)
@[simp] theorem respond_cfg : (x.respond st d).cfg = x.cfg := rfl
@[simp] theorem respond_cnt : (x.respond st d).cnt = x.cnt := rfl
@[simp] theorem respond_fault : (x.respond st d).fault = x.fault := rfl
@[simp] theorem respond_rsp : (x.respond st d).rsp = some ⟨st, d⟩ := rfl
end Respond

section WriteCount
variable (x : Block) (i : Nat) (v : Nat)
@[simp] theorem writeCount_cfg : (x.writeCount i v).cfg = x.cfg := rfl
@[simp] theorem writeCount_cnt : (x.writeCount i v).cnt = x.cnt.set i v := rfl
@[simp] theorem writeCount_fault : (x.writeCount i v).fault = x.fault := rfl
@[simp] theorem writeCount_rsp : (x.writeCount i v).rsp = x.rsp := rfl
end WriteCount

section Raise
variable (x : Block) (c : FaultCode)
@[simp] theorem raise_cfg : (x.raise c).cfg = x.cfg := rfl
@[simp] theorem raise_cnt : (x.raise c).cnt = x.cnt := rfl
@[simp] theorem raise_fault : (x.raise c).fault = c := rfl
@[simp] theorem raise_rsp : (x.raise c).rsp = some ⟨c.status, 0⟩ := rfl
end Raise

section Reset
variable (x : Block)
@[simp] theorem reset_cfg : x.reset.cfg = x.cfg := rfl
@[simp] theorem reset_cnt : x.reset.cnt = List.replicate x.cfg.size 0 := rfl
@[simp] theorem reset_fault : x.reset.fault = .none := rfl
@[simp] theorem reset_rsp : x.reset.rsp = none := rfl
@[simp] theorem refuseHalted_cfg : x.refuseHalted.cfg = x.cfg := rfl
@[simp] theorem refuseHalted_cnt : x.refuseHalted.cnt = x.cnt := rfl
@[simp] theorem refuseHalted_fault : x.refuseHalted.fault = x.fault := rfl
@[simp] theorem refuseHalted_rsp : x.refuseHalted.rsp = some ⟨.halted, 0⟩ := rfl
end Reset

section Snapshot
variable (x : Block)
@[simp] theorem snapshot_size : x.snapshot.size = x.cfg.size := rfl
@[simp] theorem snapshot_cnt : x.snapshot.cnt = x.cnt := rfl
end Snapshot

section SetBlock
variable (s : State) (k : Nat) (x : Block)
@[simp] theorem setBlock_blocks : (s.setBlock k x).blocks = s.blocks.set k x := rfl
@[simp] theorem setBlock_rcv : (s.setBlock k x).rcv = s.rcv := rfl
@[simp] theorem setBlock_src : (s.setBlock k x).src = s.src := rfl
@[simp] theorem setBlock_host : (s.setBlock k x).host = s.host := rfl

/-- Writing one block leaves every other block alone (R24). -/
theorem setBlock_other {j : Nat} (h : j ≠ k) : (s.setBlock k x).block? j = s.block? j := by
  simp [State.block?, State.setBlock, Ne.symm h]

/-- The written block reads back, where there is one. -/
theorem setBlock_same {y : Block} (h : s.block? k = some y) : (s.setBlock k x).block? k = some x := by
  obtain ⟨hk, -⟩ := List.getElem?_eq_some_iff.mp h
  simp [State.block?, State.setBlock, hk]
end SetBlock

section Select
variable (s : State) (k p : Nat) (rest : List HostEvent)
@[simp] theorem select_blocks : (s.select k p rest).blocks = s.blocks := rfl
@[simp] theorem select_rcv : (s.select k p rest).rcv = k := rfl
@[simp] theorem select_src : (s.select k p rest).src = p := rfl
@[simp] theorem select_host : (s.select k p rest).host = rest := rfl
@[simp] theorem select_block? (j : Nat) : (s.select k p rest).block? j = s.block? j := rfl
end Select

end Sys2Proof.Machine
end

