-- ==== Sys2Proof/Laws/Ops.lean ====
section
/-! SUPPORT. Each shared operation, said once: if it answers a next state, which one. Proofs cite these lemmas and do
not unfold the operations. -/

namespace Sys2Proof.Machine

/-- What reading a counter answers (R9). -/
theorem readCount_eq_some {x : Block} {i : Nat} {c : Nat} :
    x.readCount i = some c ↔ i < x.cfg.size ∧ x.cnt[i]? = some c := by
  unfold Block.readCount
  split <;> simp_all

/-- What reading every counter answers (R21). -/
theorem readAll_eq_some {x : Block} {cs : List Nat} :
    x.readAll = some cs ↔ x.cnt.length = x.cfg.size ∧ cs = x.cnt := by
  unfold Block.readAll
  split <;> simp_all [eq_comm]

/-- What the end of a query does (R68): it answers the value, which fits, and changes nothing else. -/
theorem answer_next {x y : Block} {v : Nat} :
    x.answer v = .next y ↔ v < 2 ^ totalWidth x.cfg ∧ y = x.respond .ok v := by
  unfold Block.answer
  cases h : zext (totalWidth x.cfg) v with
  | none =>
    have : ¬ v < 2 ^ totalWidth x.cfg := by
      intro hv
      simp [zext, hv] at h
    simp [this]
  | some d =>
    obtain ⟨hv, rfl⟩ := zext_eq_some.mp h
    simp [hv, eq_comm]

/-- What a counter update does (R82, R83): one counter changes, the answer is (OK, 0). -/
theorem updateCount_next {x y : Block} {i : Nat} {f : Nat → Nat} :
    x.updateCount i f = .next y ↔
      ∃ c, x.readCount i = some c ∧ f c ≤ ceil x.cfg ∧ y = (x.writeCount i (f c)).respond .ok 0 := by
  unfold Block.updateCount
  cases x.readCount i with
  | none => simp
  | some c => by_cases hf : f c ≤ ceil x.cfg <;> simp [hf, eq_comm]

/-- What a counter query does (R100, R101): the answer is made from the counter, nothing else changes. -/
theorem queryCount_next {x y : Block} {i : Nat} {f : Nat → Nat} :
    x.queryCount i f = .next y ↔
      ∃ c, x.readCount i = some c ∧ f c < 2 ^ totalWidth x.cfg ∧ y = x.respond .ok (f c) := by
  unfold Block.queryCount
  cases x.readCount i with
  | none => simp
  | some c => simp [answer_next]

/-- What a merge on a running block does (R122): a fault entry, or every counter at once. -/
theorem mergeWith_next {x y : Block} {p : Peer} :
    x.mergeWith p = .next y ↔
      (compat x.cfg p = false ∧ y = x.raise .compatError) ∨
      (compat x.cfg p = true ∧ x.cnt.length = x.cfg.size ∧ p.cnt.length = x.cfg.size ∧
        y = { x with cnt := mergeCounts x.cfg x.cnt p.cnt, rsp := some ⟨.ok, 0⟩ }) := by
  unfold Block.mergeWith
  cases hc : compat x.cfg p with
  | false => simp [eq_comm]
  | true =>
    cases hr : x.readAll with
    | none =>
      have : x.cnt.length ≠ x.cfg.size := by
        intro h
        simp [Block.readAll, h] at hr
      simp [this]
    | some cs =>
      obtain ⟨hl, rfl⟩ := readAll_eq_some.mp hr
      by_cases hp : p.cnt.length = x.cfg.size <;> simp [hl, hp, eq_comm, Block.respond]

/-- What acting on one block does (R24): that block is replaced, and no other. -/
theorem onBlock_next {s t : State} {k : Nat} {f : Block → Host.Outcome Block Fault Refusal} :
    s.onBlock k f = .next t ↔ ∃ x y, s.block? k = some x ∧ f x = .next y ∧ t = s.setBlock k y := by
  unfold State.onBlock
  cases s.block? k with
  | none => simp
  | some x => cases hf : f x <;> simp [hf, eq_comm]

/-- What the frame of a command does (R206): HALTED on a halted block, the command's rule on a running one. -/
theorem runCommand_next {s t : State} {body : Block → Host.Outcome Block Fault Refusal} :
    s.runCommand body = .next t ↔ ∃ x, s.block? s.rcv = some x ∧
      ((x.fault ≠ .none ∧ t = s.setBlock s.rcv x.refuseHalted) ∨
        (x.fault = .none ∧ ∃ y, body x = .next y ∧ t = s.setBlock s.rcv y)) := by
  unfold State.runCommand
  rw [onBlock_next]
  constructor
  · rintro ⟨x, y, hx, hy, rfl⟩
    refine ⟨x, hx, ?_⟩
    by_cases hf : x.fault = .none
    · exact .inr ⟨hf, y, by simpa [hf] using hy, rfl⟩
    · refine .inl ⟨hf, ?_⟩
      simp only [hf, if_false, Host.Outcome.next.injEq] at hy
      rw [hy]
  · rintro ⟨x, hx, ⟨hf, rfl⟩ | ⟨hf, y, hy, rfl⟩⟩
    · exact ⟨x, _, hx, by simp [hf], rfl⟩
    · exact ⟨x, y, hx, by simpa [hf] using hy, rfl⟩

/-- A running receiver: the command's rule decides. -/
theorem runCommand_running {s : State} {x : Block} {body : Block → Host.Outcome Block Fault Refusal}
    (hx : s.block? s.rcv = some x) (hf : x.fault = .none) :
    s.runCommand body = match body x with
      | .next y => .next (s.setBlock s.rcv y)
      | .fault e => .fault e
      | .refused r => .refused r := by
  cases h : body x <;> simp [State.runCommand, State.onBlock, hx, hf, h]

/-- A halted receiver answers HALTED (R208). -/
theorem runCommand_halted {s : State} {x : Block} {body : Block → Host.Outcome Block Fault Refusal}
    (hx : s.block? s.rcv = some x) (hf : x.fault ≠ .none) :
    s.runCommand body = .next (s.setBlock s.rcv x.refuseHalted) := by
  simp [State.runCommand, State.onBlock, hx, hf]

/-- What a reset does (R230). -/
theorem resetBlock_next {s t : State} {k : Nat} :
    s.resetBlock k = .next t ↔ ∃ x, s.block? k = some x ∧ t = s.setBlock k x.reset := by
  unfold State.resetBlock
  rw [onBlock_next]
  simp only [Host.Outcome.next.injEq]
  constructor
  · rintro ⟨x, _, hx, rfl, rfl⟩
    exact ⟨x, hx, rfl⟩
  · rintro ⟨x, hx, rfl⟩
    exact ⟨x, _, hx, rfl, rfl⟩

/-- What fetching a command answers (R61): the decoded word of the receiving block's width. -/
theorem fetch_ok {s : State} {cw : Nat} {i : Instr} :
    s.fetch cw = .ok i ↔ ∃ x, s.block? s.rcv = some x ∧ decode x.cfg.addrWidth cw = .ok i := by
  unfold State.fetch
  cases s.block? s.rcv with
  | none => simp
  | some x => cases hd : decode x.cfg.addrWidth cw <;> simp [hd]

/-- What one step does: nothing without an input, a reset, or the decoded command (R10, R48). -/
theorem step_next {s t : State} :
    step s = .next t ↔
      (s.host = [] ∧ t = s) ∨
      (∃ k rest, s.host = .reset k :: rest ∧ State.resetBlock { s with host := rest } k = .next t) ∨
      (∃ k p cw rest i, s.host = .command k p cw :: rest ∧ (s.select k p rest).fetch cw = .ok i ∧
        exec i (s.select k p rest) = .next t) := by
  unfold step
  cases hh : s.host with
  | nil => simp [@eq_comm _ s t]
  | cons e rest =>
    cases e with
    | reset k => simp
    | command k p cw => cases hf : (s.select k p rest).fetch cw <;> simp [hf]

/-- What elaboration answers (R157, R219): a block in its reset state, exactly for a legal configuration. -/
theorem elaborate_ok {c : Config} {x : Block} :
    elaborate c = .ok x ↔ c.Legal ∧ x = Block.atReset c := by
  unfold elaborate Config.Legal
  cases elabError c <;> simp [eq_comm]

end Sys2Proof.Machine
end

