-- ==== Sys2Proof/Laws/Exec.lean ====
section
/-! SUPPORT. What executing a command can do to the receiving block, and what one step can do to the system, each said
once: proofs about every command take these apart and unfold no meaning. -/

namespace Sys2Proof.Machine

/-- What a command `i` that completes can make of the receiving block `x` in the system `s` (R82 to R84, R100 to R102,
R122, R202, R203, R208). -/
inductive Effect (s : State) (x : Block) : Instr → Block → Prop where
  | halted {i : Instr} (h : x.fault ≠ .none) : Effect s x i x.refuseHalted
  | set {a c : Nat} (run : x.fault = .none) (read : x.readCount (index x.cfg a) = some c) :
      Effect s x (.set a) ((x.writeCount (index x.cfg a) (satInc x.cfg c)).respond .ok 0)
  | unset {a c : Nat} (run : x.fault = .none) (has : x.cfg.hasUnset = true)
      (read : x.readCount (index x.cfg a) = some c) (le : satDec c ≤ ceil x.cfg) :
      Effect s x (.unset a) ((x.writeCount (index x.cfg a) (satDec c)).respond .ok 0)
  | unsupported {a : Nat} (run : x.fault = .none) (has : x.cfg.hasUnset = false) :
      Effect s x (.unset a) (x.raise .unsupported)
  | clear {a : Nat} (run : x.fault = .none) :
      Effect s x (.clear a) { x with cnt := List.replicate x.cfg.size 0, rsp := some ⟨.ok, 0⟩ }
  | getCount {a c : Nat} (run : x.fault = .none) (read : x.readCount (index x.cfg a) = some c)
      (fits : c < 2 ^ totalWidth x.cfg) : Effect s x (.getCount a) (x.respond .ok c)
  | isSet {a c : Nat} (run : x.fault = .none) (read : x.readCount (index x.cfg a) = some c)
      (fits : comparator x.cfg c < 2 ^ totalWidth x.cfg) :
      Effect s x (.isSet a) (x.respond .ok (comparator x.cfg c))
  | getTotal {a : Nat} (run : x.fault = .none) (shape : x.cnt.length = x.cfg.size)
      (fits : x.cnt.sum < 2 ^ totalWidth x.cfg) : Effect s x (.getTotal a) (x.respond .ok x.cnt.sum)
  | merge {a : Nat} {p : Block} (run : x.fault = .none) (peer : s.block? s.src = some p)
      (ok : compat x.cfg p.snapshot = true) (shape : x.cnt.length = x.cfg.size)
      (peerShape : p.cnt.length = x.cfg.size) :
      Effect s x (.merge a) { x with cnt := mergeCounts x.cfg x.cnt p.cnt, rsp := some ⟨.ok, 0⟩ }
  | incompatible {a : Nat} {p : Block} (run : x.fault = .none) (peer : s.block? s.src = some p)
      (bad : compat x.cfg p.snapshot = false) : Effect s x (.merge a) (x.raise .compatError)
  | illegal {i : Instr} (run : x.fault = .none)
      (reserved : (opcodeOf i).toNat = 0 ∨ 8 ≤ (opcodeOf i).toNat) : Effect s x i (x.raise .illegalCommand)

/-- No command changes the configuration (R25). -/
theorem Effect.cfg_eq {s : State} {x y : Block} {i : Instr} (h : Effect s x i y) : y.cfg = x.cfg := by
  cases h <;> rfl

/-- Every command runs in the frame of R206. -/
theorem exec_eq_runCommand (i : Instr) (s : State) : ∃ body, exec i s = s.runCommand body := by
  cases i <;> exact ⟨_, rfl⟩

/-- A running block's command body decides the effect. -/
theorem effect_of_body {s t : State} {x : Block} {i : Instr} {body : Block → Host.Outcome Block Fault Refusal}
    (hx : s.block? s.rcv = some x) (h : s.runCommand body = .next t)
    (hb : ∀ y, x.fault = .none → body x = .next y → Effect s x i y) :
    ∃ y, t = s.setBlock s.rcv y ∧ Effect s x i y := by
  obtain ⟨x', hx', ⟨hf, rfl⟩ | ⟨hf, y, hy, rfl⟩⟩ := runCommand_next.mp h
  · rw [hx] at hx'
    cases hx'
    exact ⟨_, rfl, .halted hf⟩
  · rw [hx] at hx'
    cases hx'
    exact ⟨y, rfl, hb y hf hy⟩

/-- Executing a command that completes changes the receiving block by one of the effects and nothing else. -/
theorem exec_effect {i : Instr} {s t : State} {x : Block} (h : exec i s = .next t)
    (hx : s.block? s.rcv = some x) : ∃ y, t = s.setBlock s.rcv y ∧ Effect s x i y := by
  cases i with
  | set a =>
    refine effect_of_body hx h fun y hf hy => ?_
    obtain ⟨c, hr, -, rfl⟩ := updateCount_next.mp hy
    exact .set hf hr
  | unset a =>
    refine effect_of_body hx h fun y hf hy => ?_
    split at hy
    · rename_i hu
      obtain ⟨c, hr, hc, rfl⟩ := updateCount_next.mp hy
      exact .unset hf hu hr hc
    · rename_i hu
      cases hy
      exact .unsupported hf (by simpa using hu)
  | getCount a =>
    refine effect_of_body hx h fun y hf hy => ?_
    obtain ⟨c, hr, hc, rfl⟩ := queryCount_next.mp hy
    exact .getCount hf hr hc
  | isSet a =>
    refine effect_of_body hx h fun y hf hy => ?_
    obtain ⟨c, hr, hc, rfl⟩ := queryCount_next.mp hy
    exact .isSet hf hr hc
  | getTotal a =>
    refine effect_of_body hx h fun y hf hy => ?_
    split at hy
    · cases hy
    · rename_i cs hcs
      obtain ⟨hl, rfl⟩ := readAll_eq_some.mp hcs
      obtain ⟨hv, rfl⟩ := answer_next.mp hy
      exact .getTotal hf hl hv
  | clear a =>
    refine effect_of_body hx h fun y hf hy => ?_
    cases hy
    exact .clear hf
  | merge a =>
    refine effect_of_body hx h fun y hf hy => ?_
    split at hy
    · cases hy
    · rename_i p hp
      obtain ⟨hc, rfl⟩ | ⟨hc, hl, hp', rfl⟩ := mergeWith_next.mp hy
      · exact .incompatible hf hp hc
      · exact .merge hf hp hc hl hp'
  | _ a =>
    refine effect_of_body hx h fun y hf hy => ?_
    cases hy
    exact .illegal hf (by simp [opcodeOf])

/-- What a command that completes finds and leaves: a receiving block, changed by one of the effects. -/
theorem exec_next {i : Instr} {s t : State} (h : exec i s = .next t) :
    ∃ x y, s.block? s.rcv = some x ∧ t = s.setBlock s.rcv y ∧ t.block? s.rcv = some y ∧ Effect s x i y := by
  obtain ⟨body, hb⟩ := exec_eq_runCommand i s
  obtain ⟨x, hx, -⟩ := runCommand_next.mp (hb ▸ h)
  obtain ⟨y, rfl, he⟩ := exec_effect h hx
  exact ⟨x, y, hx, rfl, setBlock_same s _ y hx, he⟩

/-- What one step can do to the system: nothing without an input, put one block into its reset state, or one command's
effect on the block it names. -/
theorem step_effect {s t : State} (h : step s = .next t) :
    (s.host = [] ∧ t = s) ∨
    (∃ k rest x, s.host = .reset k :: rest ∧ s.block? k = some x ∧
      t = State.setBlock { s with host := rest } k x.reset) ∨
    (∃ k p cw rest i x y, s.host = .command k p cw :: rest ∧ s.block? k = some x ∧
      decode x.cfg.addrWidth cw = .ok i ∧ t = (s.select k p rest).setBlock k y ∧
      Effect (s.select k p rest) x i y) := by
  obtain h | ⟨k, rest, hh, hr⟩ | ⟨k, p, cw, rest, i, hh, hf, he⟩ := step_next.mp h
  · exact .inl h
  · obtain ⟨x, hx, rfl⟩ := resetBlock_next.mp hr
    exact .inr (.inl ⟨k, rest, x, hh, hx, rfl⟩)
  · obtain ⟨x, hx, hd⟩ := fetch_ok.mp hf
    obtain ⟨y, rfl, hy⟩ := exec_effect he hx
    exact .inr (.inr ⟨k, p, cw, rest, i, x, y, hh, hx, hd, rfl, hy⟩)

end Sys2Proof.Machine
end

