-- ==== Sys2Proof/Laws/Oracle.lean ====
section
/-! SUPPORT. What each operation of a running oracle does (R173, R174), said once, and the form of its map. -/

namespace Sys2Proof.Machine

theorem mem_insertKey {a b : Nat} {l : List Nat} : b ∈ insertKey a l ↔ b = a ∨ b ∈ l := by
  induction l with
  | nil => simp [insertKey]
  | cons c l ih =>
    unfold insertKey
    split
    · simp
    · split
      · simp_all
      · simp only [List.mem_cons, ih]
        tauto

/-- Putting a key in twice is putting it in once (R173: a counter saturates at 1). -/
theorem insertKey_insertKey (a : Nat) (l : List Nat) : insertKey a (insertKey a l) = insertKey a l := by
  induction l with
  | nil => simp [insertKey]
  | cons c l ih =>
    by_cases h : a < c
    · simp [insertKey, h]
    · by_cases h2 : a = c
      · simp [insertKey, h2]
      · simp [insertKey, h, h2, ih]

theorem pairwise_insertKey {a : Nat} {l : List Nat} (h : l.Pairwise (· < ·)) :
    (insertKey a l).Pairwise (· < ·) := by
  induction l with
  | nil => simp [insertKey]
  | cons c l ih =>
    obtain ⟨hc, hl⟩ := List.pairwise_cons.mp h
    unfold insertKey
    split
    · rename_i hac
      exact List.pairwise_cons.mpr ⟨fun b hb => by
        rcases List.mem_cons.mp hb with rfl | hb
        · exact hac
        · exact Nat.lt_trans hac (hc b hb), h⟩
    · split
      · exact h
      · exact List.pairwise_cons.mpr ⟨fun b hb => by
          rcases mem_insertKey.mp hb with rfl | hb
          · omega
          · exact hc b hb, ih hl⟩

section Running
variable {o : Oracle} (h : o.fault = .none)
include h

theorem oracle_set (a : Nat) : o.set a = ({ o with keys := insertKey a o.keys }, ⟨.ok, 0⟩) := if_pos h

theorem oracle_unset (a : Nat) (hu : o.hasUnset = true) :
    o.unset a = ({ o with keys := o.keys.filter fun b => decide (b ≠ a) }, ⟨.ok, 0⟩) := by
  simp [Oracle.unset, Oracle.guard, h, hu]

theorem oracle_unset_unsupported (a : Nat) (hu : o.hasUnset = false) :
    o.unset a = ({ o with fault := .unsupported }, ⟨.unsupported, 0⟩) := by
  simp [Oracle.unset, Oracle.guard, h, hu]

theorem oracle_getCount (a : Nat) : o.getCount a = (o, ⟨.ok, o.count a⟩) := if_pos h

theorem oracle_isSet (a : Nat) : o.isSet a = (o, ⟨.ok, if 1 ≤ o.count a then 1 else 0⟩) := if_pos h

theorem oracle_getTotalCount : o.getTotalCount = (o, ⟨.ok, o.keys.length⟩) := if_pos h

theorem oracle_clear : o.clear = ({ o with keys := [] }, ⟨.ok, 0⟩) := if_pos h

theorem oracle_merge (p : Oracle) :
    o.merge p = ({ o with keys := p.keys.foldr insertKey o.keys }, ⟨.ok, 0⟩) := if_pos h

end Running

/-- A halted oracle answers HALTED and changes nothing (R170, R208; log entry 16). -/
theorem oracle_halted {o : Oracle} (h : o.fault ≠ .none) (body : Oracle × Response) :
    o.guard body = (o, ⟨.halted, 0⟩) := if_neg h

/-- The length of a list in the map's form is the sum of the counts over any range that holds its keys. -/
theorem length_eq_sum_count {l : List Nat} (h : l.Pairwise (· < ·)) (n : Nat) (hn : ∀ k ∈ l, k < n) :
    l.length = ((List.range n).map fun k => if k ∈ l then 1 else 0).sum := by
  have hp : ((List.range n).filter fun k => decide (k ∈ l)).Perm l := by
    refine (List.perm_ext_iff_of_nodup (List.nodup_range.filter _)
      (h.imp fun hab => Nat.ne_of_lt hab)).mpr fun k => ?_
    simp only [List.mem_filter, List.mem_range, decide_eq_true_eq, and_iff_right_iff_imp]
    exact hn k
  rw [← hp.length_eq]
  generalize List.range n = r
  clear hp hn
  induction r with
  | nil => rfl
  | cons k r ih =>
    by_cases hk : k ∈ l
    · simp [hk, ih, Nat.add_comm]
    · simp [hk, ih]

end Sys2Proof.Machine
end

