-- ==== Sys2Proof/Laws/PerInstr.lean ====
section
/-! SUPPORT. The per-instruction families: one lemma per constructor of Instr. -/

namespace Sys2Proof.Laws.EncodedFields

/-- The two fields of an encoded command (R61): the low four bits are its opcode, the rest its address, and the word has
`CW_WIDTH` bits when the command is well formed. -/
def Statement (i : Instr) : Prop :=
  encode i % 16 = (opcodeOf i).toNat ∧ encode i / 16 = i.addr ∧
    ∀ addrWidth, i.WellFormed addrWidth → encode i < 2 ^ Machine.cwWidth addrWidth

/-- What the family rests on: an opcode has four bits. -/
theorem of_opcode_lt (i : Instr) : Statement i := by
  have h : (opcodeOf i).toNat < 16 := (opcodeOf i).isLt
  refine ⟨by unfold encode; omega, by unfold encode; omega, fun A hA => ?_⟩
  have hp : (2 : Nat) ^ Machine.cwWidth A = 2 ^ A * 16 := Nat.pow_add 2 A 4
  have : i.addr < 2 ^ A := hA
  unfold encode
  omega

theorem set (a : Nat) : Statement (.set a) := of_opcode_lt _
theorem unset (a : Nat) : Statement (.unset a) := of_opcode_lt _
theorem getCount (a : Nat) : Statement (.getCount a) := of_opcode_lt _
theorem isSet (a : Nat) : Statement (.isSet a) := of_opcode_lt _
theorem getTotal (a : Nat) : Statement (.getTotal a) := of_opcode_lt _
theorem clear (a : Nat) : Statement (.clear a) := of_opcode_lt _
theorem merge (a : Nat) : Statement (.merge a) := of_opcode_lt _
theorem reserved0 (a : Nat) : Statement (.reserved0 a) := of_opcode_lt _
theorem reserved8 (a : Nat) : Statement (.reserved8 a) := of_opcode_lt _
theorem reserved9 (a : Nat) : Statement (.reserved9 a) := of_opcode_lt _
theorem reservedA (a : Nat) : Statement (.reservedA a) := of_opcode_lt _
theorem reservedB (a : Nat) : Statement (.reservedB a) := of_opcode_lt _
theorem reservedC (a : Nat) : Statement (.reservedC a) := of_opcode_lt _
theorem reservedD (a : Nat) : Statement (.reservedD a) := of_opcode_lt _
theorem reservedE (a : Nat) : Statement (.reservedE a) := of_opcode_lt _
theorem reservedF (a : Nat) : Statement (.reservedF a) := of_opcode_lt _

end Sys2Proof.Laws.EncodedFields
end

