-- ==== Sys2Proof/Laws/Run.lean ====
section
/-! SUPPORT. Runs of the machine: one step at a time, and the induction over a run packaged once. -/

namespace Sys2Proof.Machine

/-- A run of `n + 1` steps whose first step goes on is a run of `n` steps from there. -/
theorem core_run_next {M : Host.Core} {n : Nat} {s t : M.State} (h : M.step s = .next t) :
    M.run (n + 1) s = M.run n t := by
  rw [Host.Core.run, h]

/-- A run that stops with a fault after `n + 1` steps stops at the first step, or goes on and stops later. -/
theorem core_run_fault {M : Host.Core} {n : Nat} {s : M.State} {f : M.Fault}
    (h : M.run (n + 1) s = .fault f) :
    M.step s = .fault f ∨ ∃ t, M.step s = .next t ∧ M.run n t = .fault f := by
  rw [Host.Core.run] at h
  cases hs : M.step s with
  | next t => exact .inr ⟨t, rfl, by rw [hs] at h; exact h⟩
  | fault g => exact .inl (by rw [hs] at h; exact h)
  | refused r => rw [hs] at h; cases h

/-- The same for this machine. -/
theorem run_succ_of_next {n : Nat} {s t : State} (h : step s = .next t) :
    Host.Core.run Sys2Proof.core (n + 1) s = Host.Core.run Sys2Proof.core n t :=
  core_run_next (M := Sys2Proof.core) h

/-- What every step keeps and what no state that has it faults on, no run faults on. -/
theorem neverFaults_of_invariant {Inv : State → Prop}
    (keep : ∀ s t, Inv s → step s = .next t → Inv t) (safe : ∀ s f, Inv s → step s ≠ .fault f) :
    ∀ s, Inv s → NeverFaults s := by
  intro s hs n
  induction n generalizing s with
  | zero => intro f h; cases h
  | succ n ih =>
    intro f hf
    obtain h | ⟨t, h, ht⟩ := core_run_fault (M := Sys2Proof.core) hf
    · exact safe s f hs h
    · exact ih t (keep s t hs h) f ht

/-- What every step keeps while it goes on, every run goes on with. -/
theorem neverStops_of_invariant {Inv : State → Prop}
    (keep : ∀ s, Inv s → ∃ t, step s = .next t ∧ Inv t) : ∀ s, Inv s → NeverStops s := by
  intro s hs n
  induction n generalizing s with
  | zero => exact ⟨s, rfl⟩
  | succ n ih =>
    obtain ⟨t, ht, hi⟩ := keep s hs
    obtain ⟨u, hu⟩ := ih t hi
    exact ⟨u, (run_succ_of_next ht).trans hu⟩

end Sys2Proof.Machine
end

