-- ==== Sys2Proof/Laws/Unread.lean ====
section
/-! SUPPORT. `CMD_LATENCY` and `HOST_PACKING` are parameters on which no rule depends (R43, R236): a step of a system whose
blocks have other values of the two is the same step. -/

namespace Sys2Proof.Machine

/-- A block with another `CMD_LATENCY` and `HOST_PACKING`. -/
def Block.repack (l : Nat) (h : HostPacking) (x : Block) : Block :=
  { x with cfg := { x.cfg with cmdLatency := l, hostPacking := h } }

/-- A system with another `CMD_LATENCY` and `HOST_PACKING` in every block. -/
def State.repack (l : Nat) (h : HostPacking) (s : State) : State :=
  { s with blocks := s.blocks.map (Block.repack l h) }

/-- What follows a next state, with the stops as they are. -/
def mapNext {S T F R : Type} (f : S → T) : Host.Outcome S F R → Host.Outcome T F R
  | .next s => .next (f s)
  | .fault e => .fault e
  | .refused r => .refused r

section Repack
variable (l : Nat) (h : HostPacking)

theorem repack_block? (s : State) (k : Nat) : (s.repack l h).block? k = (s.block? k).map (Block.repack l h) := by
  simp [State.block?, State.repack]

theorem repack_setBlock (s : State) (k : Nat) (x : Block) :
    (s.repack l h).setBlock k (x.repack l h) = (s.setBlock k x).repack l h := by
  simp [State.setBlock, State.repack, List.map_set]

/-- Acting on one block: it is enough that what acts on the block does not look. -/
theorem onBlock_repack {f g : Block → Host.Outcome Block Fault Refusal} (s : State) (k : Nat)
    (hf : ∀ x, g (x.repack l h) = mapNext (Block.repack l h) (f x)) :
    (s.repack l h).onBlock k g = mapNext (State.repack l h) (s.onBlock k f) := by
  unfold State.onBlock
  rw [repack_block?]
  cases s.block? k with
  | none => rfl
  | some x =>
    simp only [Option.map_some, hf]
    cases f x <;> simp [mapNext, repack_setBlock]

theorem runCommand_repack {f g : Block → Host.Outcome Block Fault Refusal} (s : State)
    (hf : ∀ x, g (x.repack l h) = mapNext (Block.repack l h) (f x)) :
    (s.repack l h).runCommand g = mapNext (State.repack l h) (s.runCommand f) := by
  refine onBlock_repack l h s s.rcv fun x => ?_
  by_cases hx : x.fault = .none
  · rw [if_pos hx, if_pos (show (x.repack l h).fault = .none from hx)]
    exact hf x
  · rw [if_neg hx, if_neg (show (x.repack l h).fault ≠ .none from hx)]
    rfl

theorem updateCount_repack (x : Block) (i : Nat) (f : Nat → Nat) :
    (x.repack l h).updateCount i f = mapNext (Block.repack l h) (x.updateCount i f) := by
  have hr : (x.repack l h).readCount i = x.readCount i := rfl
  unfold Block.updateCount
  rw [hr]
  cases x.readCount i with
  | none => rfl
  | some c =>
    show (if f c ≤ ceil x.cfg then _ else _) = _
    by_cases hc : f c ≤ ceil x.cfg <;> simp only [hc, if_true, if_false] <;> rfl

theorem answer_repack (x : Block) (v : Nat) :
    (x.repack l h).answer v = mapNext (Block.repack l h) (x.answer v) := by
  show (match zext (totalWidth x.cfg) v with | some d => _ | none => _) = _
  unfold Block.answer
  cases zext (totalWidth x.cfg) v <;> rfl

theorem queryCount_repack (x : Block) (i : Nat) (f : Nat → Nat) :
    (x.repack l h).queryCount i f = mapNext (Block.repack l h) (x.queryCount i f) := by
  have hr : (x.repack l h).readCount i = x.readCount i := rfl
  unfold Block.queryCount
  rw [hr]
  cases x.readCount i with
  | none => rfl
  | some c => exact answer_repack l h x (f c)

theorem mergeWith_repack (x : Block) (p : Peer) :
    (x.repack l h).mergeWith p = mapNext (Block.repack l h) (x.mergeWith p) := by
  have hc : compat (x.repack l h).cfg p = compat x.cfg p := rfl
  have hr : (x.repack l h).readAll = x.readAll := rfl
  unfold Block.mergeWith
  rw [hc, hr]
  cases compat x.cfg p with
  | false => rfl
  | true =>
    cases x.readAll with
    | none => rfl
    | some cs =>
      show (if p.cnt.length = x.cfg.size then _ else _) = _
      by_cases hp : p.cnt.length = x.cfg.size <;> simp only [hp, if_true, if_false] <;> rfl

/-- No command reads the two parameters. -/
theorem exec_repack (i : Instr) (s : State) :
    exec i (s.repack l h) = mapNext (State.repack l h) (exec i s) := by
  cases i with
  | set a => exact runCommand_repack l h s fun x => updateCount_repack l h x _ _
  | unset a =>
    refine runCommand_repack l h s fun x => ?_
    show (if x.cfg.hasUnset then _ else _) = _
    cases hu : x.cfg.hasUnset with
    | false => rfl
    | true => exact updateCount_repack l h x _ _
  | getCount a => exact runCommand_repack l h s fun x => queryCount_repack l h x _ _
  | isSet a => exact runCommand_repack l h s fun x => queryCount_repack l h x _ _
  | getTotal a =>
    refine runCommand_repack l h s fun x => ?_
    show (match x.readAll with | none => _ | some cs => _) = _
    cases x.readAll with
    | none => rfl
    | some cs => exact answer_repack l h x _
  | merge a =>
    refine runCommand_repack l h s fun x => ?_
    rw [repack_block?]
    show (match (s.block? s.src).map (Block.repack l h) with | Option.none => _ | some p => _) = _
    cases s.block? s.src with
    | none => rfl
    | some p => exact mergeWith_repack l h x p.snapshot
  | _ a => exact runCommand_repack l h s fun x => rfl

theorem fetch_repack (s : State) (cw : Nat) : (s.repack l h).fetch cw = s.fetch cw := by
  unfold State.fetch
  rw [show (s.repack l h).rcv = s.rcv from rfl, repack_block?]
  cases s.block? s.rcv <;> rfl

/-- No step reads the two parameters (R43, R236). -/
theorem step_repack (s : State) : step (s.repack l h) = mapNext (State.repack l h) (step s) := by
  have hh : (s.repack l h).host = s.host := rfl
  unfold step
  rw [hh]
  cases s.host with
  | nil => rfl
  | cons e rest =>
    cases e with
    | reset k => exact onBlock_repack l h { s with host := rest } k fun x => rfl
    | command k p cw =>
      have hf : (State.select (s.repack l h) k p rest).fetch cw = (s.select k p rest).fetch cw :=
        fetch_repack l h (s.select k p rest) cw
      simp only [hf]
      cases (s.select k p rest).fetch cw with
      | error r => rfl
      | ok i => exact exec_repack l h i (s.select k p rest)

end Repack

end Sys2Proof.Machine
end

