-- ==== Sys2Proof/Machine/Listing.lean ====
section
/-! DEFINITION. The listing syntax of R70, as abstract lines: one command per line, an optional receiving block (R215),
and what the host presents for it. Comments, spacing and the decimal or hex spelling of a number are no part of it, and
the names of blocks are the host's numbers (log entry 15, DESIGN CHOICE). -/

namespace Sys2Proof.Machine

/-- The command of a line (R70). An omitted address is `none`; `op` is `.op n, addr`, the raw word with opcode `n`. R70
gives `.op` for the reserved opcodes and says nothing of the others; here it takes any opcode (log entry 15,
DESIGN CHOICE). -/
inductive LineCommand where
  | set (addr : Nat)
  | unset (addr : Nat)
  | getCount (addr : Nat)
  | isSet (addr : Nat)
  | getTotal
  | clear
  | merge (peer : Nat)
  | op (n : Opcode) (addr : Option Nat)
deriving DecidableEq, Repr

/-- A line (R70): the block after `@`, if the line names one, and the command. -/
structure Line where
  target : Option Nat
  command : LineCommand
deriving DecidableEq, Repr

/-- The command a line stands for; omitting the address gives `addr = 0` (R70). -/
def LineCommand.instr : LineCommand → Instr
  | .set a => .set a
  | .unset a => .unset a
  | .getCount a => .getCount a
  | .isSet a => .isSet a
  | .getTotal => .getTotal 0
  | .clear => .clear 0
  | .merge _ => .merge 0
  | .op n a => instrOfFields n (a.getD 0)

/-- The block that a line puts on the merge-source port of block `k`: MERGE's peer, and otherwise block `k` itself. SET,
UNSET, GETCOUNT, ISSET, GETTOTAL, CLEAR and a reserved opcode do not look at the port. `.op 7` does: it is a raw MERGE
word, for which R70 has no place to name a peer, and here it merges block `k` with itself (log entry 15,
DESIGN CHOICE). -/
def LineCommand.peer (k : Nat) : LineCommand → Nat
  | .merge p => p
  | _ => k

/-- What the host presents for a line, for blocks of address width `addrWidth` and the receiving block `dflt` where the
line names none. An address of more bits is no address (R70). -/
def Line.assemble (addrWidth dflt : Nat) (l : Line) : Option HostEvent :=
  if l.command.instr.addr < 2 ^ addrWidth then
    some (.command (l.target.getD dflt) (l.command.peer (l.target.getD dflt)) (encode l.command.instr))
  else none

/-- A program is the list of its lines, in order (R70, R48). -/
def assemble (addrWidth dflt : Nat) (ls : List Line) : Option (List HostEvent) :=
  ls.mapM (Line.assemble addrWidth dflt)

end Sys2Proof.Machine
end

