-- ==== Sys2Proof/Tests/Slice0.lean ====
section
/-! SUPPORT. Tests from 95_test_vectors.md and hand calculation, and one witness for the hypotheses of each statement.
Each test names its vector. -/

namespace Sys2Proof.Tests

open Sys2Proof.Machine

/-! ### Small systems -/

/-- `CFG_B` of 95_test_vectors.md. -/
def cfgB : Config := { Config.cfgA with offsetBits := 6, counterWidth := 3, threshold := 1, maskLsbs := [0, 4], maskSizes := [4, 4] }

/-- `CFG_C`. -/
def cfgC : Config := { Config.cfgA with size := 10, counterWidth := 1, threshold := 1, maskLsbs := [0], maskSizes := [3] }

/-- `CFG_D`. -/
def cfgD : Config := { Config.cfgA with size := 8 }

/-- `CFG_U`. -/
def cfgU : Config := { Config.cfgA with hasUnset := false }

/-- `CFG_S`. -/
def cfgS : Config := { Config.cfgA with mergeCheck := .sizeOnly }

/-- A block whose first two counters are given and whose others are 0. -/
def blk (c : Config) (c0 c1 : Nat) (f : FaultCode := .none) : Block :=
  { Block.atReset c with cnt := c0 :: c1 :: List.replicate (c.size - 2) 0, fault := f }

/-- A system whose block 0 receives and whose block 1 is on the merge-source port. -/
def sys (x p : Block) (host : List HostEvent := []) : State := ⟨[x, p], 0, 1, host⟩

/-- What a next state shows of block 0: the first two counters, FAULT and the response. -/
def shows (o : Host.Outcome State Fault Refusal) : Option (List Nat × FaultCode × Option Response) :=
  match o with
  | .next s => (s.block? 0).map fun x => (x.cnt.take 2, x.fault, x.rsp)
  | _ => none

/-- An outcome is this fault of the model. -/
def faults (o : Host.Outcome State Fault Refusal) (f : Fault) : Bool :=
  match o with
  | .fault g => decide (g = f)
  | _ => false

/-- An outcome is this refusal. -/
def refuses (o : Host.Outcome State Fault Refusal) (r : Refusal) : Bool :=
  match o with
  | .refused q => decide (q = r)
  | _ => false

def sA : State := sys (blk .cfgA 0 2) (blk .cfgA 1 1)

/-! ### Words: R61, R62, section 2.3 -/

/-- V-ENC-1 to V-ENC-4, the bits written out: address, then opcode. -/
theorem test_decode_address_commands :
    decode 16 0b00000000000000100001 = .ok (.set 2) ∧ decode 16 0b00000000000000110010 = .ok (.unset 3) ∧
    decode 16 0b00000000000000100011 = .ok (.getCount 2) ∧
    decode 16 0b00000000000010100100 = .ok (.isSet 10) := by decide

/-- V-ENC-5 to V-ENC-8. -/
theorem test_decode_whole_array_commands :
    decode 16 0b00000000000000000101 = .ok (.getTotal 0) ∧
    decode 16 0b11111111111111110101 = .ok (.getTotal 0xFFFF) ∧
    decode 16 0b00000000000000000110 = .ok (.clear 0) ∧
    decode 16 0b00000000000000000111 = .ok (.merge 0) := by decide

/-- V-ENC-9 to V-ENC-11, and the reserved opcodes the vectors leave out, from R62. -/
theorem test_decode_reserved :
    decode 16 0b00000000000000000000 = .ok (.reserved0 0) ∧ decode 16 0b00000000000001011001 = .ok (.reserved9 5) ∧
    decode 16 0b11111111111111111111 = .ok (.reservedF 0xFFFF) ∧ decode 4 0b00011000 = .ok (.reserved8 1) ∧
    decode 4 0b00011010 = .ok (.reservedA 1) ∧ decode 4 0b00011011 = .ok (.reservedB 1) ∧
    decode 4 0b00011100 = .ok (.reservedC 1) ∧ decode 4 0b00011101 = .ok (.reservedD 1) ∧
    decode 4 0b00011110 = .ok (.reservedE 1) := by decide

/-- V-ENC-12 and its word back. -/
theorem test_decode_high_address : decode 16 0x12341 = .ok (.set 0x1234) ∧ encode (.set 0x1234) = 0x12341 := by decide

theorem test_decode_rejects_overwide : decode 16 0x100001 = .error (.notACommandWord 0x100001 20) := by decide

theorem test_table_word : decodeTableWord 24 0x1 = some (.set 0) ∧ decodeTableWord 8 0xf = some (.reservedF 0) := by
  decide

/-- R41: an address of more than ADDR_WIDTH bits makes a command ill formed. -/
theorem test_wellFormed_refuses_wide_address :
    ¬ (Instr.set 0x10000).WellFormed 16 ∧ (Instr.set 0xFFFF).WellFormed 16 := by decide

/-! ### Configurations: section 2.2, one ill-formed term per check -/

theorem test_config_valid : validate .cfgA = none ∧ validate cfgB = none ∧ validate cfgC = none ∧
    validate { Config.cfgA with size := 1, maskLsbs := [0], maskSizes := [0] } = none ∧
    validate { Config.cfgA with offsetBits := 16 } = none := by decide

/-- V-CFG-2, 3, 5, 7, 9. -/
theorem test_config_scalar_checks :
    validate { Config.cfgA with size := 0 } = some .size ∧
    validate { Config.cfgA with counterWidth := 0, threshold := 1 } = some .counterWidth ∧
    validate { Config.cfgA with threshold := 0 } = some .threshold ∧
    validate { Config.cfgA with threshold := 4 } = some .threshold ∧
    validate { Config.cfgA with offsetBits := 17 } = some .offset := by decide

/-- V-CFG-10, 11, 12, 14, 16, 18, 20. -/
theorem test_config_mask_checks :
    validate { Config.cfgA with maskLsbs := [], maskSizes := [] } = some .noMasks ∧
    validate { Config.cfgA with maskSizes := [1] } = some .maskIncomplete ∧
    validate { Config.cfgA with maskLsbs := [1] } = some .maskIncomplete ∧
    validate { Config.cfgA with maskLsbs := [13], maskSizes := [4] } = some .lsbOutOfRange ∧
    validate { Config.cfgA with maskLsbs := [0], maskSizes := [5] } = some .maskTooLarge ∧
    validate { Config.cfgA with size := 10, maskLsbs := [0], maskSizes := [4] } = some .maskTooLarge ∧
    validate { Config.cfgA with size := 1, maskLsbs := [0], maskSizes := [1] } = some .maskTooLarge := by decide

/-- The bounds of R149 and R156, and R5's own columns; every HOST_PACKING is legal. -/
theorem test_config_bounds :
    validate { Config.cfgA with maxCounterWidth := some 1 } = some .counterWidth ∧
    validate { Config.cfgA with maxMasks := some 1 } = some .maskCount ∧
    elabError { Config.cfgA with offsetBits := 0, addrWidth := 0, maskLsbs := [0], maskSizes := [0] } =
      some .addrWidth ∧
    elabError { Config.cfgA with cmdLatency := 0 } = some .cmdLatency ∧
    elabError { Config.cfgA with hostPacking := ⟨7⟩ } = none := by decide

/-- D3: blocks of different address widths make no system. -/
theorem test_boot_refuses_mixed_widths :
    (boot [.cfgA, { Config.cfgA with addrWidth := 20 }] []).toOption = none ∧
    (boot [.cfgA, cfgD] []).toOption = some (sys (Block.atReset .cfgA) (Block.atReset cfgD)) := by decide

/-! ### The index function: section 2.1 -/

/-- V-IDX-3, 9, 11, 13 (`CFG_A`) and V-IDX-15, 18, 19, 20, 23, 24 (`CFG_B`). -/
theorem test_index_folds :
    [2, 8, 10, 0xFFFF].map (index .cfgA) = [1, 1, 0, 0] ∧
    [0x003F, 0x0400, 0x0440, 0x1234, 0xABCD, 0xFFFF].map (index cfgB) = [0, 1, 0, 12, 5, 0] := by decide

/-- V-IDX-28, 30, 31, 32, 33, 34. -/
theorem test_index_corners :
    index cfgC 15 = 7 ∧ index { Config.cfgA with size := 1, maskLsbs := [0], maskSizes := [0] } 0xFFFF = 0 ∧
    index { Config.cfgA with offsetBits := 16 } 0xFFFF = 0 ∧
    index { Config.cfgA with maskLsbs := [2, 2], maskSizes := [2, 2] } 0xFFFF = 0 ∧
    index { Config.cfgA with maskLsbs := [0, 2], maskSizes := [2, 2] } 0b1101 = 2 ∧
    index { Config.cfgA with offsetBits := 8, maskLsbs := [6], maskSizes := [4] } 0xFFFF = 3 := by decide

/-- The `TOTAL_WIDTH` column of section 0. -/
theorem test_totalWidth : [Config.cfgA, cfgB, cfgC, cfgD].map totalWidth = [6, 7, 4, 5] := by decide

/-! ### Commands: sections 2.4 to 2.7 -/

/-- V-UPD-2 and V-UPD-3: SET 3 goes from 2 to 3, SET 8 stays at 3. -/
theorem test_set :
    shows (exec (.set 3) (sys (blk .cfgA 0 2) (blk .cfgA 0 0))) = some ([0, 3], .none, some ⟨.ok, 0⟩) ∧
    shows (exec (.set 8) (sys (blk .cfgA 0 3) (blk .cfgA 0 0))) = some ([0, 3], .none, some ⟨.ok, 0⟩) := by decide

/-- V-UPD-5, V-UPD-6 and V-UPD-9. -/
theorem test_unset :
    shows (exec (.unset 3) (sys (blk .cfgA 0 2) (blk .cfgA 0 0))) = some ([0, 1], .none, some ⟨.ok, 0⟩) ∧
    shows (exec (.unset 2) (sys (blk .cfgA 0 0) (blk .cfgA 0 0))) = some ([0, 0], .none, some ⟨.ok, 0⟩) ∧
    shows (exec (.unset 2) (sys (blk cfgU 0 1) (blk .cfgA 0 0))) =
      some ([0, 1], .unsupported, some ⟨.unsupported, 0⟩) := by decide

/-- V-UPD-7. -/
theorem test_clear :
    shows (exec (.clear 0) (sys (blk .cfgA 1 3) (blk .cfgA 0 0))) = some ([0, 0], .none, some ⟨.ok, 0⟩) := by decide

/-- V-Q-1 and V-Q-11. -/
theorem test_getCount :
    shows (exec (.getCount 3) sA) = some ([0, 2], .none, some ⟨.ok, 2⟩) ∧
    shows (exec (.getCount 2) (sys (blk .cfgA 0 2 .illegalCommand) (blk .cfgA 0 0))) =
      some ([0, 2], .illegalCommand, some ⟨.halted, 0⟩) := by decide

/-- V-Q-3, V-Q-4 and V-Q-6. -/
theorem test_isSet :
    shows (exec (.isSet 2) (sys (blk .cfgA 0 1) (blk .cfgA 0 0))) = some ([0, 1], .none, some ⟨.ok, 0⟩) ∧
    shows (exec (.isSet 2) sA) = some ([0, 2], .none, some ⟨.ok, 1⟩) ∧
    shows (exec (.isSet 9) sA) = some ([0, 2], .none, some ⟨.ok, 1⟩) := by decide

/-- V-Q-7 and V-Q-8: the largest total, 48, fits its six bits. -/
theorem test_getTotal :
    shows (exec (.getTotal 0) (sys (blk .cfgA 1 3) (blk .cfgA 0 0))) = some ([1, 3], .none, some ⟨.ok, 4⟩) ∧
    shows (exec (.getTotal 0xFFFF) (sys { Block.atReset cfgS with cnt := List.replicate 16 3 } (blk .cfgA 0 0))) =
      some ([3, 3], .none, some ⟨.ok, 48⟩) := by decide

/-- V-M-1, V-M-2 (self-merge) and V-M-9 (a wider peer is clamped). -/
theorem test_merge :
    shows (exec (.merge 0) sA) = some ([1, 3], .none, some ⟨.ok, 0⟩) ∧
    shows (exec (.merge 0) { sys (blk .cfgA 1 3) (blk .cfgA 0 0) with src := 0 }) =
      some ([2, 3], .none, some ⟨.ok, 0⟩) ∧
    shows (exec (.merge 0) (sys (blk cfgS 0 1) (blk cfgB 0 5))) = some ([0, 3], .none, some ⟨.ok, 0⟩) := by decide

/-- V-M-4 to V-M-8. -/
theorem test_merge_incompatible :
    [cfgD, { Config.cfgA with counterWidth := 3 }, { Config.cfgA with threshold := 3 },
      { Config.cfgA with maskLsbs := [0, 3] }].map
        (fun c => shows (exec (.merge 0) (sys (blk .cfgA 0 1) (blk c 0 1)))) =
      List.replicate 4 (some ([0, 1], .compatError, some ⟨.compatError, 0⟩)) ∧
    shows (exec (.merge 0) (sys (blk cfgS 0 0) (blk cfgD 0 0))) =
      some ([0, 0], .compatError, some ⟨.compatError, 0⟩) := by decide

/-- V-F-1 and V-F-4, for every reserved opcode. -/
theorem test_reserved :
    [Instr.reserved0 5, .reserved8 5, .reserved9 5, .reservedA 5, .reservedB 5, .reservedC 5, .reservedD 5,
      .reservedE 5, .reservedF 5].map (fun i => shows (exec i sA)) =
      List.replicate 9 (some ([0, 2], .illegalCommand, some ⟨.illegalCommand, 0⟩)) ∧
    shows (exec (.reserved9 5) (sys (blk .cfgA 0 2 .compatError) (blk .cfgA 0 0))) =
      some ([0, 2], .compatError, some ⟨.halted, 0⟩) := by decide

/-- V-F-5 and V-F-6: CLEAR does not recover a halted block, reset does. -/
theorem test_only_reset_recovers :
    shows (exec (.clear 0) (sys (blk .cfgA 0 1 .compatError) (blk .cfgA 0 0))) =
      some ([0, 1], .compatError, some ⟨.halted, 0⟩) ∧
    shows (step (sys (blk .cfgA 0 1 .compatError) (blk .cfgA 0 0) [.reset 0])) = some ([0, 0], .none, none) := by
  decide

/-- One step from reset on a placed table word (P1, command 1). -/
theorem test_step_runs_placed_word :
    shows (step (State.reset.withFetchWord 24 0x00021)) = some ([0, 1], .none, some ⟨.ok, 0⟩) := by decide

/-- Lines of program P3 (`@Y SET 3`, `@X MERGE Y`) and of P5 (`.op 0, 0`), with X block 0 and Y block 1. -/
theorem test_listing :
    assemble 16 0 [⟨some 1, .set 3⟩, ⟨some 0, .merge 1⟩, ⟨none, .op 0 none⟩] =
      some [.command 1 1 0x00031, .command 0 1 0x00007, .command 0 0 0x00000] ∧
    assemble 16 0 [⟨none, .set 0x10000⟩] = none := by decide

/-- I6 and log entries 5 and 6: the model's own stops. -/
theorem test_model_stops :
    faults (exec (.set 2) (sys (blk { Config.cfgA with size := 1 } 0 0) (blk .cfgA 0 0))) .indexOutOfRange = true ∧
    refuses (step (sys (blk .cfgA 0 0) (blk .cfgA 0 0) [.command 2 0 0x00021])) (.noSuchBlock 2) = true ∧
    refuses (exec (.merge 0) { sA with src := 2 }) (.noPeer 2) = true := by decide

/-- E7: the oracle after `set(0); set(0)`. -/
theorem test_oracle_double_set :
    let o : Oracle := ((Oracle.mk true [] .none).set 0).1
    (o.set 0).1.keys = [0] ∧ (o.set 0).1.getCount 0 = (o, ⟨.ok, 1⟩) ∧ (o.set 0).1.getCount 1 = (o, ⟨.ok, 0⟩) ∧
      (o.set 0).1.getTotalCount = (o, ⟨.ok, 1⟩) := by decide

/-! ### Witnesses: states and operands that meet the hypotheses of each statement together -/

/-- The largest address of 16 bits. -/
theorem witness_OpcodeMapDecodes :
    0xFFFF < 2 ^ 16 := by decide

/-- A command with the largest address. -/
theorem witness_DecodeOfEncode :
    (Instr.getTotal 0xFFFF).WellFormed 16 := by decide

/-- The largest word of 20 bits. -/
theorem witness_EncodeOfDecode :
    0xFFFFF < 2 ^ (16 + 4) := by decide

/-- One per clause, each at the first value outside: the word 2 ^ 20, block 2 of two, port 2 of two. -/
theorem witness_UnpresentableInputRefused :
    (∃ s : State, s.host = .command 0 1 0x100000 :: [] ∧ s.blocks[0]? = some (blk .cfgA 0 2) ∧
      2 ^ ((blk .cfgA 0 2).cfg.addrWidth + 4) ≤ 0x100000) ∧
    (∃ s : State, s.blocks.length ≤ 2 ∧ (s.host = .command 2 1 0 :: [] ∨ s.host = .reset 2 :: [])) ∧
    ∃ s : State, s.blocks[s.rcv]? = some (blk .cfgA 0 2) ∧ (blk .cfgA 0 2).fault = .none ∧ s.blocks.length ≤ s.src := ⟨⟨sys (blk .cfgA 0 2) (blk .cfgA 0 0) [.command 0 1 0x100000], by decide⟩,
    ⟨sys (blk .cfgA 0 2) (blk .cfgA 0 0) [.reset 2], by decide⟩,
    ⟨{ sA with src := 2 }, by decide⟩⟩

/-- A SET presented to block 0. -/
theorem witness_StepRunsDecodedCommand :
    ∃ s : State, s.host = .command 0 1 0x00021 :: [] ∧ s.blocks[0]? = some (blk .cfgA 0 2) ∧
      decode (blk .cfgA 0 2).cfg.addrWidth 0x00021 = .ok (.set 2) := ⟨sys (blk .cfgA 0 2) (blk .cfgA 0 0) [.command 0 1 0x00021], by decide⟩

/-- A table word of 24 bits. -/
theorem witness_PlacedWordRunsNext :
    sA.blocks[sA.rcv]? = some (blk .cfgA 0 2) ∧
      decode (blk .cfgA 0 2).cfg.addrWidth (0x00021 % 2 ^ 24 % 2 ^ ((blk .cfgA 0 2).cfg.addrWidth + 4)) = .ok (.set 2) := by decide

/-- The reset of a halted block. -/
theorem witness_ResetEventResetsBlock :
    ∃ s : State, s.host = .reset 0 :: [] ∧ s.blocks[0]? = some (blk .cfgA 0 1 .compatError) := ⟨sys (blk .cfgA 0 1 .compatError) (blk .cfgA 0 0) [.reset 0], by decide⟩

/-- A MERGE that completes. -/
theorem witness_ResetDiscardsCommand :
    ∃ t, exec (.merge 0) sA = .next t := ⟨_, rfl⟩

/-- The reset system. -/
theorem witness_IdleStepChangesNothing :
    State.reset.host = [] := by decide

/-- A configuration that fails a check. -/
theorem witness_ElaborationYieldsResetBlock :
    validate { Config.cfgA with size := 0 } = some .size := by decide

/-- Two blocks of different configurations. -/
theorem witness_BootedSystemWellFormed :
    boot [.cfgA, cfgD] [.reset 0] = .ok (sys (Block.atReset .cfgA) (Block.atReset cfgD) [.reset 0]) := rfl

/-- A SIZE that is no power of two, and a block of SIZE 1 under masks that reach 1. -/
theorem witness_IndexBelowSize :
    validate cfgC = none ∧
    ∃ (s : State) (x : Block), s.blocks[s.rcv]? = some x ∧ x.fault = .none ∧ x.cfg.size ≤ index x.cfg 2 ∧
      x.cfg.hasUnset = true := ⟨by decide, sys (blk { Config.cfgA with size := 1 } 0 0) (blk .cfgA 0 0), _, rfl, by decide⟩

/-- One configuration per clause: two masks in the other order, and two identical masks in front. -/
theorem witness_MaskOrderIrrelevant :
    (Config.cfgA.offsetBits = ({ Config.cfgA with maskLsbs := [3, 1] } : Config).offsetBits ∧
      (Config.cfgA.maskLsbs.zip Config.cfgA.maskSizes).Perm
        (({ Config.cfgA with maskLsbs := [3, 1] } : Config).maskLsbs.zip Config.cfgA.maskSizes)) ∧
    ({ Config.cfgA with maskLsbs := [2, 2, 1, 3], maskSizes := [2, 2, 1, 1] } : Config).maskLsbs.zip [2, 2, 1, 1] =
      (2, 2) :: (2, 2) :: Config.cfgA.maskLsbs.zip Config.cfgA.maskSizes := by decide

/-- The two ends of one aligned block, and an offset of the whole address. -/
theorem witness_OffsetBitsDropped :
    0x1200 / 2 ^ cfgB.offsetBits = 0x123F / 2 ^ cfgB.offsetBits ∧
      ({ Config.cfgA with offsetBits := 16 } : Config).offsetBits = Config.cfgA.addrWidth ∧ 0xFFFF < 2 ^ 16 := by decide

/-- One running block per clause: two counters for SIZE 16, such a peer, a count of 5 where CEIL is 3, and a count of 64 where six bits are shown. -/
theorem witness_MalformedBlockFaults :
    (∃ (s : State) (x : Block), s.blocks[s.rcv]? = some x ∧ x.fault = .none ∧ x.cnt.length ≠ x.cfg.size) ∧
    (∃ (s : State) (x p : Block), s.blocks[s.rcv]? = some x ∧ x.fault = .none ∧ s.blocks[s.src]? = some p ∧
      compat x.cfg p.snapshot = true ∧ p.cnt.length ≠ x.cfg.size) ∧
    (∃ (s : State) (x : Block), s.blocks[s.rcv]? = some x ∧ x.fault = .none ∧ index x.cfg 2 < x.cfg.size ∧
      x.cnt[index x.cfg 2]? = some 5 ∧ x.cfg.hasUnset = true ∧ 2 ^ x.cfg.counterWidth < 5) ∧
    ∃ (s : State) (x : Block), s.blocks[s.rcv]? = some x ∧ x.fault = .none ∧ index x.cfg 2 < x.cfg.size ∧
      x.cnt[index x.cfg 2]? = some 64 ∧ 2 ^ totalWidth x.cfg ≤ 64 := ⟨⟨sys { blk .cfgA 0 0 with cnt := [0, 0] } (blk .cfgA 0 0), _, rfl, by decide⟩,
    ⟨sys (blk .cfgA 0 0) { blk .cfgA 0 0 with cnt := [0, 0] }, _, _, rfl, rfl, rfl, by decide⟩,
    ⟨sys (blk .cfgA 0 5) (blk .cfgA 0 0), _, rfl, by decide⟩,
    ⟨sys (blk .cfgA 0 64) (blk .cfgA 0 0), _, rfl, by decide⟩⟩

/-- The narrowest counter, at its ceiling. -/
theorem witness_SaturatingArithmetic :
    1 ≤ cfgC.counterWidth ∧ 1 ≤ 2 ^ cfgC.counterWidth - 1 := by decide

/-- A running, well-formed block. -/
theorem witness_SetIncrementsCounter :
    sA.blocks[sA.rcv]? = some (blk .cfgA 0 2) ∧ (blk .cfgA 0 2).Wf ∧ (blk .cfgA 0 2).fault = .none := by decide

/-- A running, well-formed block. -/
theorem witness_GetCountReadsCounter :
    sA.blocks[sA.rcv]? = some (blk .cfgA 0 2) ∧ (blk .cfgA 0 2).Wf ∧ (blk .cfgA 0 2).fault = .none := by decide

/-- A running, well-formed block. -/
theorem witness_IsSetComparesThreshold :
    sA.blocks[sA.rcv]? = some (blk .cfgA 0 2) ∧ (blk .cfgA 0 2).Wf ∧ (blk .cfgA 0 2).fault = .none := by decide

/-- A running, well-formed block. -/
theorem witness_GetTotalSumsCounters :
    sA.blocks[sA.rcv]? = some (blk .cfgA 0 2) ∧ (blk .cfgA 0 2).Wf ∧ (blk .cfgA 0 2).fault = .none := by decide

/-- A running, well-formed block. -/
theorem witness_IsSetAgreesWithGetCount :
    sA.blocks[sA.rcv]? = some (blk .cfgA 0 2) ∧ (blk .cfgA 0 2).Wf ∧ (blk .cfgA 0 2).fault = .none := by decide

/-- A running, well-formed block with HAS_UNSET. -/
theorem witness_UnsetDecrementsCounter :
    sA.blocks[sA.rcv]? = some (blk .cfgA 0 2) ∧ (blk .cfgA 0 2).Wf ∧ (blk .cfgA 0 2).fault = .none ∧
      (blk .cfgA 0 2).cfg.hasUnset = true := by decide

/-- A running block without HAS_UNSET. -/
theorem witness_UnsetWithoutCapabilityFaults :
    (sys (blk cfgU 0 1) (blk .cfgA 0 0)).blocks[0]? = some (blk cfgU 0 1) ∧ (blk cfgU 0 1).fault = .none ∧
      (blk cfgU 0 1).cfg.hasUnset = false := by decide

/-- A running block. -/
theorem witness_ClearZeroesEveryCounter :
    sA.blocks[sA.rcv]? = some (blk .cfgA 0 2) ∧ (blk .cfgA 0 2).fault = .none := by decide

/-- A compatible peer under FULL, and a halted peer of another width under SIZE_ONLY. -/
theorem witness_MergeAddsPeerCounters :
    (sA.blocks[sA.rcv]? = some (blk .cfgA 0 2) ∧ sA.blocks[sA.src]? = some (blk .cfgA 1 1) ∧ (blk .cfgA 0 2).Wf ∧
      (blk .cfgA 1 1).Wf ∧ (blk .cfgA 0 2).fault = .none ∧ (blk .cfgA 1 1).cfg.size = (blk .cfgA 0 2).cfg.size) ∧
    (blk cfgS 0 1).Wf ∧ (blk cfgB 0 5 .compatError).Wf ∧ (blk cfgS 0 1).cfg.mergeCheck ≠ .full ∧
      (blk cfgB 0 5 .compatError).cfg.size = (blk cfgS 0 1).cfg.size := by decide

/-- A peer with another THRESHOLD only. -/
theorem witness_MergeFullCheckFaults :
    ∃ p : Block, p.cfg = { Config.cfgA with threshold := 3 } ∧
      (sys (blk .cfgA 0 1) p).blocks[1]? = some p ∧ (blk .cfgA 0 1).fault = .none ∧
      (blk .cfgA 0 1).cfg.mergeCheck = .full ∧ p.cfg.threshold ≠ (blk .cfgA 0 1).cfg.threshold := ⟨blk { Config.cfgA with threshold := 3 } 0 1, by decide⟩

/-- A smaller peer under SIZE_ONLY. -/
theorem witness_SizeMismatchAlwaysFaults :
    (sys (blk cfgS 0 0) (blk cfgD 0 0)).blocks[0]? = some (blk cfgS 0 0) ∧
      (sys (blk cfgS 0 0) (blk cfgD 0 0)).blocks[1]? = some (blk cfgD 0 0) ∧ (blk cfgS 0 0).fault = .none ∧
      (blk cfgD 0 0).cfg.size ≠ (blk cfgS 0 0).cfg.size := by decide

/-- A running block and two of the nine opcodes. -/
theorem witness_ReservedOpcodesFault :
    sA.blocks[sA.rcv]? = some (blk .cfgA 0 2) ∧ (blk .cfgA 0 2).fault = .none ∧
      (opcodeOf (.reserved0 5)).toNat = 0 ∧ (opcodeOf (.reservedF 5)).toNat = 15 := by decide

/-- A halted block. -/
theorem witness_HaltedBlockAnswersHalted :
    (sys (blk .cfgA 0 1 .compatError) (blk .cfgA 0 0)).blocks[0]? = some (blk .cfgA 0 1 .compatError) ∧
      (blk .cfgA 0 1 .compatError).fault ≠ .none := by decide

/-- A MERGE that completes, beside another block. -/
theorem witness_OtherBlocksUntouched :
    (∃ t, exec (.merge 0) sA = .next t) ∧ 1 ≠ sA.rcv := ⟨⟨_, rfl⟩, by decide⟩

/-- Both commands complete on one block. -/
theorem witness_SetUnsetFrame :
    sA.blocks[sA.rcv]? = some (blk .cfgA 0 2) ∧ (∃ t, exec (.set 2) sA = .next t) ∧ ∃ t, exec (.unset 2) sA = .next t := ⟨by decide, ⟨_, rfl⟩, ⟨_, rfl⟩⟩

/-- The three queries complete. -/
theorem witness_QueriesChangeNothing :
    sA.blocks[sA.rcv]? = some (blk .cfgA 0 2) ∧ (∃ t, exec (.getCount 2) sA = .next t) ∧
      (∃ t, exec (.isSet 2) sA = .next t) ∧ ∃ t, exec (.getTotal 2) sA = .next t := ⟨by decide, ⟨_, rfl⟩, ⟨_, rfl⟩, ⟨_, rfl⟩⟩

/-- The three kinds complete on a block of the right length. -/
theorem witness_ClearMergeReservedFrame :
    sA.blocks[sA.rcv]? = some (blk .cfgA 0 2) ∧ (blk .cfgA 0 2).cnt.length = (blk .cfgA 0 2).cfg.size ∧
      (∃ t, exec (.clear 0) sA = .next t) ∧ (∃ t, exec (.merge 0) sA = .next t) ∧
      ∃ t, exec (.reserved8 0) sA = .next t := ⟨by decide, by decide, ⟨_, rfl⟩, ⟨_, rfl⟩, ⟨_, rfl⟩⟩

/-- A step that runs a MERGE. -/
theorem witness_ConfigurationNeverChanges :
    ∃ t, step { sA with host := [.command 0 1 0x00007] } = .next t := ⟨_, rfl⟩

/-- A CLEAR presented to a halted block. -/
theorem witness_FaultIsSticky :
    ∃ (s t : State) (x : Block), step s = .next t ∧ s.blocks[0]? = some x ∧ x.fault ≠ .none := ⟨sys (blk .cfgA 0 1 .compatError) (blk .cfgA 0 0) [.command 0 1 0x00006], _, _, rfl, rfl, by decide⟩

/-- An UNSET without HAS_UNSET. -/
theorem witness_OnlyThreeCausesHalt :
    ∃ (s t : State) (x y : Block), exec (.unset 2) s = .next t ∧ s.blocks[s.rcv]? = some x ∧
      t.blocks[s.rcv]? = some y ∧ x.fault = .none ∧ y.fault ≠ .none := ⟨sys (blk cfgU 0 1) (blk .cfgA 0 0), _, _, _, rfl, rfl, rfl, rfl, by decide⟩

/-- A well-formed system with a command to come. -/
theorem witness_StepKeepsWellFormed :
    ∃ s t : State, s.Wf ∧ step s = .next t := ⟨{ sA with host := [.command 0 1 0x00007] }, _, by decide, rfl⟩

/-- A well-formed system. -/
theorem witness_WellFormedNeverFaults :
    sA.Wf := by decide

/-- A well-formed system with legal inputs to come, the largest word among them. -/
theorem witness_WellDrivenNeverStops :
    ∃ s : State, s.Wf ∧ s.WellDriven ∧ s.host.length = 3 := by
  refine ⟨{ sA with host := [.command 0 1 0xFFFFF, .reset 1, .command 1 0 0x00007] }, by decide, ?_, rfl⟩
  intro e he
  simp only [List.mem_cons, List.not_mem_nil, or_false] at he
  rcases he with rfl | rfl | rfl <;> simp only [HostEvent.Legal] <;> decide

/-- A halted block that has answered its fault, and the reset system. -/
theorem witness_StepKeepsPortAgreement :
    (∀ x ∈ State.reset.blocks, ∃ c, x = Block.atReset c) ∧
    ∃ s t : State, (∀ x ∈ s.blocks, x.Agrees) ∧ step s = .next t := ⟨by
      intro x hx
      simp only [State.reset, List.mem_cons, List.not_mem_nil, or_false, or_self] at hx
      exact ⟨_, hx⟩, sys { blk .cfgA 0 1 .compatError with rsp := some ⟨.compatError, 0⟩ } (blk .cfgA 0 0) [.command 0 1 0x00021], _, by decide, rfl⟩

/-- A query that completes, a command that a fault ends, and a command on a halted block. -/
theorem witness_OneResponsePerCommand :
    ((∃ t, exec (.getCount 2) sA = .next t) ∧ sA.blocks[sA.rcv]? = some (blk .cfgA 0 2) ∧
      (blk .cfgA 0 2).fault = .none) ∧
    (∃ t y, exec (.reserved0 2) sA = .next t ∧ t.blocks[sA.rcv]? = some y ∧ y.fault ≠ (blk .cfgA 0 2).fault) ∧
    (∃ t, exec (.set 2) (sys (blk .cfgA 0 1 .compatError) (blk .cfgA 0 0)) = .next t) ∧
      (blk .cfgA 0 1 .compatError).fault ≠ .none :=
  ⟨⟨⟨_, rfl⟩, by decide, by decide⟩, ⟨_, _, rfl, rfl, by decide⟩, ⟨_, rfl⟩, by decide⟩

/-- A zero counter under THRESHOLD 2. -/
theorem witness_SecondSetReachesThreshold :
    ∃ s : State, s.blocks[s.rcv]? = some (blk .cfgA 0 0) ∧ (blk .cfgA 0 0).Wf ∧ (blk .cfgA 0 0).fault = .none ∧
      (blk .cfgA 0 0).cfg.threshold = 2 ∧ (blk .cfgA 0 0).cnt[index (blk .cfgA 0 0).cfg 2]? = some 0 := ⟨sys (blk .cfgA 0 0) (blk .cfgA 0 0), by decide⟩

/-- Two addresses with index 1. -/
theorem witness_GetCountSeesSet :
    sA.blocks[sA.rcv]? = some (blk .cfgA 0 2) ∧ (blk .cfgA 0 2).Wf ∧ (blk .cfgA 0 2).fault = .none ∧
      index (blk .cfgA 0 2).cfg 2 = index (blk .cfgA 0 2).cfg 3 := by decide

/-- Two colliding addresses, with the counter below CEIL and at CEIL. -/
theorem witness_UnsetOfCollidingAddress :
    sA.blocks[sA.rcv]? = some (blk .cfgA 0 2) ∧ (blk .cfgA 0 2).Wf ∧ (blk .cfgA 0 2).fault = .none ∧
      (blk .cfgA 0 2).cfg.hasUnset = true ∧ index Config.cfgA 2 = index Config.cfgA 8 ∧
      (blk .cfgA 0 2).cnt[index Config.cfgA 2]? = some 2 ∧ (blk .cfgA 0 3).Wf ∧
      (blk .cfgA 0 3).cnt[index Config.cfgA 2]? = some (2 ^ Config.cfgA.counterWidth - 1) := by decide

/-- A block on its own merge-source port, and a block with another one there. -/
theorem witness_SelfMergeDoubles :
    (∃ s : State, s.blocks[s.rcv]? = some (blk .cfgA 0 2) ∧ s.src = s.rcv ∧ (blk .cfgA 0 2).Wf ∧
      (blk .cfgA 0 2).fault = .none) ∧ sA.src ≠ sA.rcv ∧ ∃ t, exec (.merge 0) sA = .next t := ⟨⟨{ sA with src := 0 }, by decide⟩, by decide, ⟨_, rfl⟩⟩

/-- The two merges of two blocks complete. -/
theorem witness_MergeIsSymmetric :
    ∃ (s t u : State) (x y x' y' : Block), s.blocks[s.rcv]? = some x ∧ s.blocks[s.src]? = some y ∧
      x.cfg.size = y.cfg.size ∧ x.cfg.counterWidth = y.cfg.counterWidth ∧ exec (.merge 0) s = .next t ∧
      exec (.merge 0) { s with rcv := s.src, src := s.rcv } = .next u ∧ t.blocks[s.rcv]? = some x' ∧
      u.blocks[s.src]? = some y' ∧ x'.rsp = some ⟨.ok, 0⟩ ∧ y'.rsp = some ⟨.ok, 0⟩ := ⟨sA, _, _, _, _, _, _, rfl, rfl, rfl, rfl, rfl, rfl, rfl, rfl, rfl, rfl⟩

/-- A merge that completes, with one slot that clamps. -/
theorem witness_TotalAfterMerge :
    ∃ (s t : State) (x p y : Block), s.blocks[s.rcv]? = some x ∧ s.blocks[s.src]? = some p ∧ x.Wf ∧ p.Wf ∧
      exec (.merge 0) s = .next t ∧ t.blocks[s.rcv]? = some y ∧ y.rsp = some ⟨.ok, 0⟩ := ⟨sys (blk .cfgA 0 3) (blk .cfgA 1 1), _, _, _, _, rfl, rfl, by decide, by decide, rfl, rfl, rfl⟩

/-- Three SETs on an all-zero block. -/
theorem witness_CountsAfterSets :
    ∃ (s : State) (x : Block) (as : List Nat), s.blocks[0]? = some x ∧ x.Wf ∧ x.fault = .none ∧ (∀ c ∈ x.cnt, c = 0) ∧
      (∀ a ∈ as, a < 2 ^ x.cfg.addrWidth) ∧ s.host = as.map (fun a => .command 0 1 (encode (.set a))) ∧ as = [2, 3, 0xFFFF] := ⟨sys (blk .cfgA 0 0) (blk .cfgA 0 0) [.command 0 1 0x00021, .command 0 1 0x00031, .command 0 1 0xFFFF1],
    blk .cfgA 0 0, [2, 3, 0xFFFF], by decide⟩

/-- The same SETs, and a fresh oracle. -/
theorem witness_BlockCountsAtLeastOracle :
    ∃ (s : State) (x : Block) (as : List Nat), s.blocks[0]? = some x ∧ x.Wf ∧ x.fault = .none ∧ (∀ c ∈ x.cnt, c = 0) ∧
      (∀ a ∈ as, a < 2 ^ x.cfg.addrWidth) ∧ s.host = as.map (fun a => .command 0 1 (encode (.set a))) ∧ as = [2, 3, 0xFFFF] ∧
      Oracle.build 1 1 1 true = some ⟨true, [], .none⟩ := ⟨sys (blk .cfgA 0 0) (blk .cfgA 0 0) [.command 0 1 0x00021, .command 0 1 0x00031, .command 0 1 0xFFFF1],
    blk .cfgA 0 0, [2, 3, 0xFFFF], by decide⟩

/-- `CFG_A` reaches only the slots 0 and 1. -/
theorem witness_UnreachedCountersStayZero :
    ∃ (s t : State) (x y : Block), exec (.set 2) s = .next t ∧ s.blocks[s.rcv]? = some x ∧
      t.blocks[s.rcv]? = some y ∧ (∀ q ∈ x.cfg.maskLsbs.zip x.cfg.maskSizes, q.2 ≤ 1) ∧
      ∀ j c, 2 ^ 1 ≤ j → x.cnt[j]? = some c → c = 0 := ⟨sA, _, _, _, rfl, rfl, rfl, by decide, fun j c hj hc => by
    obtain ⟨n, rfl⟩ : ∃ n, j = n + 2 := ⟨j - 2, by omega⟩
    have hc' : (List.replicate 14 0)[n]? = some c := hc
    simp only [List.getElem?_replicate] at hc'
    split at hc' <;> simp_all⟩

/-- A running oracle with and one without HAS_UNSET, each in the map's form with the keys 0 and 2 below 3, and a fresh
oracle. -/
theorem witness_OracleIsExact :
    (∀ u ∈ [true, false], (Oracle.mk u [0, 2] .none).fault = .none ∧ (Oracle.mk u [0, 2] .none).Wf ∧
      (Oracle.mk u [0, 2] .none).hasUnset = u) ∧
    (∀ k, 3 ≤ k → (Oracle.mk true [0, 2] .none).count k = 0) ∧
    Oracle.build 1 1 1 true = some ⟨true, [], .none⟩ := by
  refine ⟨by decide, fun k hk => ?_, by decide⟩
  have : k ≠ 0 ∧ k ≠ 2 := by omega
  simp [Oracle.count, this]

/-- Two oracles that share one key. -/
theorem witness_OracleMergeIsPerKey :
    (Oracle.mk true [0, 2] .none).fault = .none ∧ (Oracle.mk true [0, 2] .none).Wf ∧
      (Oracle.mk true [2, 5] .none).count 2 = 1 := by decide

end Sys2Proof.Tests
end

section
/-! PROOFS. The statements of 00_scope.md: what elaboration answers (R5, R157, R219), and what a step with a command
word runs (R10, R48, R61). -/

namespace Sys2Proof.Machine

/-- Of two lists of checks, the first has precedence: the second is asked only when the first reports nothing. -/
theorem firstFailing_append (l m : List (ConfigError × Bool)) :
    firstFailing (l ++ m) = (firstFailing l).or (firstFailing m) := by
  simp [firstFailing, List.find?_append, Option.map_or]

/-- Elaboration asks R148 to R156 first (R157), then R5's own columns (log entry 3). -/
theorem elabError_eq (c : Config) : elabError c = (validate c).or (firstFailing (paramChecks c)) :=
  firstFailing_append _ _

/-- The two legal-value columns of R5 that R148 to R156 do not imply. -/
theorem firstFailing_paramChecks_eq_none {c : Config} :
    firstFailing (paramChecks c) = none ↔ 1 ≤ c.addrWidth ∧ 1 ≤ c.cmdLatency := by
  rw [firstFailing_eq_none]
  simp [paramChecks]

/-- A legal configuration, check by check: R148 to R156 and R5's two columns. -/
theorem legal_iff {c : Config} : c.Legal ↔ validate c = none ∧ 1 ≤ c.addrWidth ∧ 1 ≤ c.cmdLatency := by
  rw [Config.Legal, elabError_eq, Option.or_eq_none_iff, firstFailing_paramChecks_eq_none]

/-- A configuration that fails a check elaborates to that error and no block (R157, R219). -/
theorem elaborate_error {c : Config} {e : ConfigError} (h : elabError c = some e) : elaborate c = .error e := by
  simp only [elaborate, h]

/-- A step whose next input is a command runs what the receiving block's port decodes it to (R10, R48). -/
theorem step_command {s : State} {k p cw : Nat} {rest : List HostEvent} {i : Instr}
    (hh : s.host = .command k p cw :: rest) (hf : (s.select k p rest).fetch cw = .ok i) :
    step s = exec i (s.select k p rest) := by
  simp only [step, hh, hf]

/-- Settles O14: legality splits into R148 to R156 and R5's columns, and the checks of R148 to R156 report first. -/
theorem elaborationYieldsResetBlock : Obligations.ElaborationYieldsResetBlock := by
  refine ⟨fun c x => ?block, fun c e hv => ?error⟩
  case block =>
    rw [elaborate_ok, legal_iff]
    rfl
  case error =>
    have he : elabError c = some e := by rw [elabError_eq, hv, Option.some_or]
    exact elaborate_error he

/-- Settles O7: the receiving block of the selected state is block `k`, so the fetch decodes at its `ADDR_WIDTH`. -/
theorem stepRunsDecodedCommand : Obligations.StepRunsDecodedCommand := by
  intro s k p cw rest x i hh hx hd
  have hf : (s.select k p rest).fetch cw = .ok i := fetch_ok.mpr ⟨x, hx, hd⟩
  exact step_command hh hf

end Sys2Proof.Machine
end

section
/-! PROOFS. The statements of 10_state.md: what a step keeps (R21 to R25, R86), what each command leaves alone, what
stops a command on a block that cannot arise (log entry 6), and the reset state (R26, R30, R69, R211). -/

namespace Sys2Proof.Machine

/-! ### Well-formed blocks -/

/-- A response without data fits every port (R68). -/
theorem fits_zero (c : Config) (st : Status) : Response.Fits c ⟨st, 0⟩ :=
  ⟨Nat.two_pow_pos _, fun _ => rfl⟩

/-- An OK answer fits when its data does (R68). -/
theorem fits_ok {c : Config} {v : Nat} (h : v < 2 ^ totalWidth c) : Response.Fits c ⟨.ok, v⟩ :=
  ⟨h, fun hne => absurd rfl hne⟩

theorem respond_wf {x : Block} {st : Status} {d : Nat} (hx : x.Wf) (hr : Response.Fits x.cfg ⟨st, d⟩) :
    (x.respond st d).Wf := by
  obtain ⟨hlegal, hlen, hceil, -⟩ := hx
  refine ⟨hlegal, hlen, hceil, fun r hmem => ?_⟩
  obtain rfl : r = ⟨st, d⟩ := by simpa using hmem
  exact hr

theorem refuseHalted_wf {x : Block} (hx : x.Wf) : x.refuseHalted.Wf := respond_wf hx (fits_zero _ _)

/-- Well-formedness does not look at FAULT, so a fault entry is a response without data. -/
theorem raise_wf {x : Block} (hx : x.Wf) (f : FaultCode) : (x.raise f).Wf :=
  respond_wf (x := { x with fault := f }) hx (fits_zero _ _)

/-- A new counter array of SIZE counters at most CEIL (R21, R22). -/
theorem withCounts_wf {x : Block} {cs : List Nat} (hx : x.Wf) (hlen : cs.length = x.cfg.size)
    (hceil : ∀ c ∈ cs, c ≤ ceil x.cfg) : Block.Wf { x with cnt := cs } := by
  obtain ⟨hlegal, -, -, hrsp⟩ := hx
  exact ⟨hlegal, hlen, hceil, hrsp⟩

theorem writeCount_wf {x : Block} {i v : Nat} (hx : x.Wf) (hv : v ≤ ceil x.cfg) : (x.writeCount i v).Wf := by
  have ⟨_, hlen, hceil, _⟩ := hx
  refine withCounts_wf hx (by rw [List.length_set, hlen]) fun c hc => ?_
  obtain hc | rfl := List.mem_or_eq_of_mem_set hc
  · exact hceil c hc
  · exact hv

theorem mergeCounts_length_eq {c : Config} {a b : List Nat} {n : Nat} (ha : a.length = n) (hb : b.length = n) :
    (mergeCounts c a b).length = n := by
  rw [mergeCounts_length, ha, hb, Nat.min_self]

theorem zeros_le_ceil (c : Config) : ∀ v ∈ List.replicate c.size 0, v ≤ ceil c := by
  intro v hv
  rw [List.eq_of_mem_replicate hv]
  exact Nat.zero_le _

/-- The reset state of a legal configuration is well formed (R30, R219). -/
theorem atReset_wf {c : Config} (hc : c.Legal) : (Block.atReset c).Wf := by
  exact ⟨hc, List.length_replicate, zeros_le_ceil c, fun r hr => by simp [Block.atReset] at hr⟩

theorem reset_wf {x : Block} (hx : x.Wf) : x.reset.Wf := by
  obtain ⟨hlegal, -⟩ := hx
  exact atReset_wf hlegal

/-- No port response is pending in the reset state, so there is nothing that could disagree with FAULT. -/
theorem atReset_agrees (c : Config) : (Block.atReset c).Agrees := by
  intro r hr
  simp [Block.atReset] at hr

/-- Every command keeps its block well formed (R22, R86): SET and MERGE clamp to CEIL, UNSET is checked, CLEAR zeroes,
and every answer fits. -/
theorem Effect.wf {s : State} {x y : Block} {i : Instr} (h : Effect s x i y) (hx : x.Wf) : y.Wf := by
  cases h with
  | halted => exact refuseHalted_wf hx
  | set => exact respond_wf (writeCount_wf hx (satInc_le_ceil _ _)) (fits_zero _ _)
  | unset _ _ _ hle => exact respond_wf (writeCount_wf hx hle) (fits_zero _ _)
  | unsupported => exact raise_wf hx _
  | clear => exact respond_wf (withCounts_wf hx List.length_replicate (zeros_le_ceil _)) (fits_zero _ _)
  | getCount _ _ hfits => exact respond_wf hx (fits_ok hfits)
  | isSet _ _ hfits => exact respond_wf hx (fits_ok hfits)
  | getTotal _ _ hfits => exact respond_wf hx (fits_ok hfits)
  | merge _ _ _ hshape hpeer =>
    have hcounts := withCounts_wf hx (mergeCounts_length_eq hshape hpeer) (mergeCounts_le_ceil _ _ _)
    exact respond_wf hcounts (fits_zero _ _)
  | incompatible => exact raise_wf hx _
  | illegal => exact raise_wf hx _

/-! ### One step, seen from the blocks -/

/-- A step writes at most one block, by its reset or by a command's effect (R24, R213, R230). -/
theorem step_blocks {s t : State} (h : step s = .next t) :
    t.blocks = s.blocks ∨ ∃ k x y, s.block? k = some x ∧ t.blocks = s.blocks.set k y ∧
      (y = x.reset ∨ ∃ i s', Effect s' x i y) := by
  obtain ⟨-, rfl⟩ | ⟨k, rest, x, -, hx, rfl⟩ | ⟨k, p, cw, rest, i, x, y, -, hx, -, rfl, he⟩ := step_effect h
  · exact .inl rfl
  · exact .inr ⟨k, x, x.reset, hx, rfl, .inl rfl⟩
  · exact .inr ⟨k, x, y, hx, rfl, .inr ⟨i, _, he⟩⟩

/-- Replacing a block by one of the same configuration changes no configuration of the system. -/
theorem map_cfg_set {s : State} {k : Nat} {x y : Block} (hx : s.block? k = some x) (hy : y.cfg = x.cfg) :
    (s.blocks.set k y).map (·.cfg) = s.blocks.map (·.cfg) := by
  obtain ⟨hk, rfl⟩ := List.getElem?_eq_some_iff.mp hx
  have hself : (s.blocks.map (·.cfg))[k]'(by simpa using hk) = s.blocks[k].cfg := List.getElem_map _
  rw [List.map_set, hy, ← hself, List.set_getElem_self]

/-- Settles O38: the block that a step writes keeps its configuration, by reset and by every effect. -/
theorem configurationNeverChanges : Obligations.ConfigurationNeverChanges := by
  intro s t h
  obtain ht | ⟨k, x, y, hx, ht, rfl | ⟨i, s', he⟩⟩ := step_blocks h
  · rw [ht]
  · rw [ht, map_cfg_set hx (reset_cfg x)]
  · rw [ht, map_cfg_set hx he.cfg_eq]

/-- Systems of the same configurations have the common `ADDR_WIDTH` (D3) together. -/
theorem addrWidth_eq_of_map_cfg_eq {s t : State} (h : t.blocks.map (·.cfg) = s.blocks.map (·.cfg))
    (hs : ∀ x ∈ s.blocks, ∀ y ∈ s.blocks, x.cfg.addrWidth = y.cfg.addrWidth) :
    ∀ x ∈ t.blocks, ∀ y ∈ t.blocks, x.cfg.addrWidth = y.cfg.addrWidth := by
  have cfg_mem : ∀ x ∈ t.blocks, ∃ x' ∈ s.blocks, x'.cfg = x.cfg := fun x hx =>
    List.mem_map.mp (h ▸ List.mem_map_of_mem hx)
  intro x hx y hy
  obtain ⟨x', hx', hxc⟩ := cfg_mem x hx
  obtain ⟨y', hy', hyc⟩ := cfg_mem y hy
  rw [← hxc, ← hyc]
  exact hs x' hx' y' hy'

/-- Every block after a step on well-formed blocks is well formed: it stood there before, or it is the one written. -/
theorem step_blocks_wf {s t : State} (h : step s = .next t) (hs : ∀ x ∈ s.blocks, x.Wf) :
    ∀ x ∈ t.blocks, x.Wf := by
  obtain ht | ⟨k, x, y, hx, ht, hy⟩ := step_blocks h
  · rwa [ht]
  · have hxw : x.Wf := hs x (List.mem_of_getElem? hx)
    have hyw : y.Wf := by
      obtain rfl | ⟨i, s', he⟩ := hy
      · exact reset_wf hxw
      · exact he.wf hxw
    intro z hz
    rw [ht] at hz
    obtain hz | rfl := List.mem_or_eq_of_mem_set hz
    · exact hs z hz
    · exact hyw

/-- Settles O41: the written block stays well formed, and the common `ADDR_WIDTH` is a matter of the configurations,
which no step changes. -/
theorem stepKeepsWellFormed : Obligations.StepKeepsWellFormed := by
  intro s t ⟨hblocks, hwidth⟩ h
  exact ⟨step_blocks_wf h hblocks, addrWidth_eq_of_map_cfg_eq (configurationNeverChanges s t h) hwidth⟩

/-! ### What commands leave alone -/

/-- Settles O34: a command that completes replaces the receiving block and does nothing else. -/
theorem otherBlocksUntouched : Obligations.OtherBlocksUntouched := by
  intro i s t h
  obtain ⟨x, y, -, rfl, -, -⟩ := exec_next h
  exact ⟨fun j hj => setBlock_other s _ y hj, by simp, rfl, rfl, rfl⟩

/-- The receiving block after a command that completes, with the effect that made it. -/
theorem exec_receiver {i : Instr} {s t : State} {x : Block} (h : exec i s = .next t)
    (hx : s.block? s.rcv = some x) : ∃ y, t.block? s.rcv = some y ∧ Effect s x i y := by
  obtain ⟨y, rfl, he⟩ := exec_effect h hx
  exact ⟨y, setBlock_same s _ y hx, he⟩

/-- A counter write keeps the number of counters and every other counter. -/
theorem writeCount_frame (x : Block) (i v : Nat) : (x.writeCount i v).cnt.length = x.cnt.length ∧
    ∀ j, j ≠ i → (x.writeCount i v).cnt[j]? = x.cnt[j]? :=
  ⟨List.length_set, fun _ hj => List.getElem?_set_ne hj.symm⟩

/-- SET keeps FAULT and every counter but the one that the address selects (R82). -/
theorem Effect.set_frame {s : State} {x y : Block} {a : Nat} (h : Effect s x (.set a) y) :
    y.fault = x.fault ∧ y.cnt.length = x.cnt.length ∧ ∀ j, j ≠ index x.cfg a → y.cnt[j]? = x.cnt[j]? := by
  cases h with
  | halted => exact ⟨rfl, rfl, fun _ _ => rfl⟩
  | set => exact ⟨rfl, writeCount_frame x _ _⟩
  | illegal _ hop => simp [opcodeOf] at hop

/-- UNSET keeps every counter but the one that the address selects; it writes either that counter or, on a running block
without HAS_UNSET, FAULT (R83, R203). -/
theorem Effect.unset_frame {s : State} {x y : Block} {a : Nat} (h : Effect s x (.unset a) y) :
    y.cnt.length = x.cnt.length ∧ (∀ j, j ≠ index x.cfg a → y.cnt[j]? = x.cnt[j]?) ∧
      (x.cfg.hasUnset = true ∨ x.fault ≠ .none → y.fault = x.fault) ∧
      (x.cfg.hasUnset = false → y.cnt = x.cnt) := by
  cases h with
  | halted => exact ⟨rfl, fun _ _ => rfl, fun _ => rfl, fun _ => rfl⟩
  | unset _ has =>
    obtain ⟨hlen, hother⟩ := writeCount_frame x (index x.cfg a) (satDec _)
    exact ⟨hlen, hother, fun _ => rfl, fun hno => by simp [has] at hno⟩
  | unsupported run has =>
    refine ⟨rfl, fun _ _ => rfl, ?_, fun _ => rfl⟩
    rintro (hyes | hhalted)
    · simp [has] at hyes
    · exact absurd run hhalted
  | illegal _ hop => simp [opcodeOf] at hop

/-- Settles O35: the two frames of the effects, with the configuration that every effect keeps. -/
theorem setUnsetFrame : Obligations.SetUnsetFrame := by
  intro s t x a hx
  refine ⟨fun h => ?set, fun h => ?unset⟩
  case set =>
    obtain ⟨y, hy, he⟩ := exec_receiver h hx
    exact ⟨y, hy, he.cfg_eq, he.set_frame⟩
  case unset =>
    obtain ⟨y, hy, he⟩ := exec_receiver h hx
    exact ⟨y, hy, he.cfg_eq, he.unset_frame⟩

/-- CLEAR does not write FAULT, and leaves SIZE counters where there were SIZE (R84). -/
theorem Effect.clear_frame {s : State} {x y : Block} {a : Nat} (h : Effect s x (.clear a) y)
    (hlen : x.cnt.length = x.cfg.size) : y.fault = x.fault ∧ y.cnt.length = x.cnt.length := by
  cases h with
  | halted => exact ⟨rfl, rfl⟩
  | clear => exact ⟨rfl, by rw [List.length_replicate, hlen]⟩
  | illegal _ hop => simp [opcodeOf] at hop

/-- MERGE keeps the number of counters, and writes the counters or FAULT, never both (R122, R204). -/
theorem Effect.merge_frame {s : State} {x y : Block} {a : Nat} (h : Effect s x (.merge a) y) :
    y.cnt.length = x.cnt.length ∧ (y.fault ≠ x.fault → y.cnt = x.cnt) := by
  cases h with
  | halted => exact ⟨rfl, fun _ => rfl⟩
  | merge _ _ _ hshape hpeer =>
    exact ⟨(mergeCounts_length_eq hshape hpeer).trans hshape.symm, fun hne => absurd rfl hne⟩
  | incompatible => exact ⟨rfl, fun _ => rfl⟩
  | illegal _ hop => simp [opcodeOf] at hop

/-- A reserved opcode writes no counter, whether its block is running or halted (R202, R207, R208). -/
theorem Effect.reserved_cnt {s : State} {x y : Block} {i : Instr} (h : Effect s x i y)
    (hi : (opcodeOf i).toNat = 0 ∨ 8 ≤ (opcodeOf i).toNat) : y.cnt = x.cnt := by
  cases h with
  | halted | illegal => rfl
  | _ => simp [opcodeOf] at hi

/-- Settles O37: the frames of the three kinds of effect, with the configuration that every effect keeps. -/
theorem clearMergeReservedFrame : Obligations.ClearMergeReservedFrame := by
  intro s t x a hx hlen
  refine ⟨fun h => ?clear, fun h => ?merge, fun i hi h => ?reserved⟩
  case clear =>
    obtain ⟨y, hy, he⟩ := exec_receiver h hx
    exact ⟨y, hy, he.cfg_eq, he.clear_frame hlen⟩
  case merge =>
    obtain ⟨y, hy, he⟩ := exec_receiver h hx
    exact ⟨y, hy, he.cfg_eq, he.merge_frame⟩
  case reserved =>
    have hop : (opcodeOf i).toNat = 0 ∨ 8 ≤ (opcodeOf i).toNat := by
      rcases hi with rfl | rfl | rfl | rfl | rfl | rfl | rfl | rfl | rfl <;> simp [opcodeOf]
    obtain ⟨y, hy, he⟩ := exec_receiver h hx
    exact ⟨y, hy, he.cfg_eq, he.reserved_cnt hop⟩

/-! ### The stops of the model on blocks that cannot arise (log entry 6) -/

/-- A command whose rule stops with a fault of the model stops with it. -/
theorem runCommand_fault {s : State} {x : Block} {body : Block → Host.Outcome Block Fault Refusal} {e : Fault}
    (hx : s.block? s.rcv = some x) (hf : x.fault = .none) (hb : body x = .fault e) :
    s.runCommand body = .fault e := by
  rw [runCommand_running hx hf, hb]

theorem readAll_eq_none {x : Block} (h : x.cnt.length ≠ x.cfg.size) : x.readAll = none := if_neg h

/-- A compatible merge stops when either counter list has another length than SIZE. -/
theorem mergeWith_fault {x : Block} {p : Peer} (hc : compat x.cfg p = true)
    (h : x.cnt.length ≠ x.cfg.size ∨ p.cnt.length ≠ x.cfg.size) : x.mergeWith p = .fault .arrayShape := by
  rw [Block.mergeWith, if_pos hc]
  by_cases hx : x.cnt.length = x.cfg.size
  · have hp : p.cnt.length ≠ x.cfg.size := h.resolve_left (not_not_intro hx)
    rw [readAll_eq_some.mpr ⟨hx, rfl⟩]
    exact if_neg hp
  · rw [readAll_eq_none hx]

theorem answer_fault {x : Block} {v : Nat} (h : 2 ^ totalWidth x.cfg ≤ v) : x.answer v = .fault .dataTooWide := by
  rw [Block.answer, zext, if_neg h.not_gt]

theorem queryCount_fault {x : Block} {i c : Nat} {f : Nat → Nat} (hr : x.readCount i = some c)
    (h : 2 ^ totalWidth x.cfg ≤ f c) : x.queryCount i f = .fault .dataTooWide := by
  rw [Block.queryCount, hr]
  exact answer_fault h

theorem updateCount_fault {x : Block} {i c : Nat} {f : Nat → Nat} (hr : x.readCount i = some c)
    (h : ceil x.cfg < f c) : x.updateCount i f = .fault .countTooWide := by
  rw [Block.updateCount, hr]
  exact if_neg h.not_ge

/-- From above `CEIL + 1` one step down does not come below `CEIL` (log entry 22). -/
theorem ceil_lt_satDec {cfg : Config} {c : Nat} (h : 2 ^ cfg.counterWidth < c) : ceil cfg < satDec c := by
  have : 0 < 2 ^ cfg.counterWidth := Nat.two_pow_pos _
  rw [satDec_eq, ceil, mask]
  omega

/-- Settles O20: the access that each command makes stops, and the frame of the command passes the stop on. -/
theorem malformedBlockFaults : Obligations.MalformedBlockFaults := by
  intro s x a hx hf
  refine ⟨fun hlen => ?total, fun p hp hc hlen => ?merge,
    fun c hi hcnt => ⟨fun hu hwide => ?unset, fun hwide => ?get⟩⟩
  case total =>
    exact runCommand_fault hx hf (by rw [readAll_eq_none hlen])
  case merge =>
    have hpeer : s.block? s.src = some p := hp
    refine runCommand_fault hx hf ?_
    rw [hpeer]
    exact mergeWith_fault hc hlen
  case unset =>
    refine runCommand_fault hx hf ?_
    rw [if_pos hu]
    exact updateCount_fault (readCount_eq_some.mpr ⟨hi, hcnt⟩) (ceil_lt_satDec hwide)
  case get =>
    exact runCommand_fault hx hf (queryCount_fault (readCount_eq_some.mpr ⟨hi, hcnt⟩) hwide)

/-! ### Reset, and the numbers of FAULT and rsp_status -/

/-- A step whose next input is a reset puts that block into its reset state (R230). -/
theorem step_reset {s : State} {k : Nat} {rest : List HostEvent} {x : Block}
    (hh : s.host = .reset k :: rest) (hx : s.block? k = some x) :
    step s = .next (State.setBlock { s with host := rest } k x.reset) :=
  step_next.mpr (.inr (.inl ⟨k, rest, hh, resetBlock_next.mpr ⟨x, hx, rfl⟩⟩))

/-- Settles O9: the step replaces block `k` by its reset state and takes the event. -/
theorem resetEventResetsBlock : Obligations.ResetEventResetsBlock := by
  intro s k rest x hh hx
  exact ⟨_, step_reset hh hx, setBlock_same { s with host := rest } k x.reset hx,
    fun j hj => setBlock_other { s with host := rest } k x.reset hj, rfl, rfl, rfl⟩

theorem cfgA_legal : Config.cfgA.Legal := by decide

/-- Every block of State.reset is `CFG_A` in its reset state (log entry 1). -/
theorem mem_reset_blocks {x : Block} (h : x ∈ State.reset.blocks) : x = Block.atReset .cfgA := by
  simpa [State.reset] using h

/-- Settles O42: both blocks are `CFG_A`, which is legal, in its reset state. -/
theorem resetIsWellFormed : Obligations.ResetIsWellFormed := by
  refine ⟨⟨fun x hx => ?wf, fun x hx y hy => ?width⟩, fun x hx => ?agrees⟩
  case wf =>
    rw [mem_reset_blocks hx]
    exact atReset_wf cfgA_legal
  case width => rw [mem_reset_blocks hx, mem_reset_blocks hy]
  case agrees =>
    rw [mem_reset_blocks hx]
    exact atReset_agrees _

/-- The fault codes are answered with their own numbers (R67, R69). -/
theorem status_code_toNat (f : FaultCode) : f.status.code.toNat = f.code.toNat := by
  cases f <;> rfl

/-- The status values 5 to 7 are never returned (R69). -/
theorem status_code_le_four (st : Status) : st.code.toNat ≤ 4 := by
  cases st <;> decide

/-- NONE is the fault code with the number 0 (R26). -/
theorem code_eq_zero {f : FaultCode} : f.code = 0 ↔ f = .none := by
  cases f <;> decide

theorem faultO_iff {x : Block} : x.faultO = true ↔ x.fault ≠ .none := decide_eq_true_iff

/-- Settles O56: the tables as they stand, and `fault_o` because NONE alone has the number 0. -/
theorem codesAndFaultOutput : Obligations.CodesAndFaultOutput :=
  ⟨⟨rfl, rfl, rfl, rfl⟩, ⟨rfl, rfl, rfl, rfl, rfl⟩, status_code_toNat, status_code_le_four,
    fun _ => faultO_iff.trans (not_congr code_eq_zero).symm⟩

/-- Settles O57: the fields of the reset state, and State.reset's blocks are in it. -/
theorem resetValues : Obligations.ResetValues :=
  ⟨fun _ => ⟨rfl, List.length_replicate, fun _ hv => List.eq_of_mem_replicate hv, rfl, rfl, rfl⟩,
    fun _ hx => ⟨_, mem_reset_blocks hx⟩⟩

end Sys2Proof.Machine
end

section
/-! PROOFS. The statements of 20_memory.md: how an address selects a counter (R44, R141), what a later command sees of an
earlier one (R48, R146, R234), how a table word comes to run (log entry 2), and that a well-formed system under legal
inputs never waits or stops (R53, R237). -/

namespace Sys2Proof.Machine

/-! ### The index of an address -/

/-- Fields of at most `n` bits fold to a number of at most `n` bits (R143). -/
theorem foldFields_lt {ms : List (Nat × Nat)} {n : Nat} (sh : Nat) (h : ∀ m ∈ ms, m.2 ≤ n) :
    foldFields ms sh < 2 ^ n := by
  refine List.foldlRecOn (motive := fun acc => acc < 2 ^ n) ms _ (Nat.two_pow_pos n) fun acc hacc m hm => ?_
  have hfield : fieldOf sh m < 2 ^ n := (fieldOf_lt sh m).trans_le (Nat.pow_le_pow_right (by decide) (h m hm))
  exact Nat.xor_lt_two_pow hacc hfield

/-- The fields of a zero address are zero, and so is their fold. -/
theorem foldFields_zero (ms : List (Nat × Nat)) : foldFields ms 0 = 0 := by
  refine List.foldlRecOn (motive := fun acc => acc = 0) ms _ rfl fun acc hacc m _ => ?_
  rw [hacc, fieldOf, Nat.zero_shiftRight, Nat.zero_and, Nat.xor_zero]

/-- A valid configuration has a counter (R148), a THRESHOLD from 1 to CEIL (R150), and no mask wider than SIZE allows
(R155). -/
theorem checks_of_valid {c : Config} (h : validate c = none) :
    1 ≤ c.size ∧ (1 ≤ c.threshold ∧ c.threshold ≤ ceil c) ∧ ∀ m ∈ masks c, 2 ^ m.2 ≤ c.size := by
  have pass : ∀ p ∈ configChecks c, p.2 = true := firstFailing_eq_none.mp h
  exact ⟨checkSize_iff.mp (pass (.size, checkSize c) (by simp [configChecks])),
    checkThreshold_iff.mp (pass (.threshold, checkThreshold c) (by simp [configChecks])),
    checkMaskWidth_iff.mp (pass (.maskTooLarge, checkMaskWidth c) (by simp [configChecks]))⟩

/-- Under a valid configuration every index selects a counter (R145): no mask is wider than `MAXW`. -/
theorem index_lt_size {c : Config} (h : validate c = none) (a : Nat) : index c a < c.size := by
  obtain ⟨hsize, -, hmasks⟩ := checks_of_valid h
  have hne : c.size ≠ 0 := Nat.one_le_iff_ne_zero.mp hsize
  have hwidth : ∀ m ∈ masks c, m.2 ≤ maxWidth c := fun m hm => (Nat.le_log2 hne).mpr (hmasks m hm)
  calc index c a < 2 ^ maxWidth c := foldFields_lt _ hwidth
    _ ≤ c.size := Nat.log2_self_le hne

/-- Step 1 of the index drops the offset bits by division (R141). -/
theorem shifted_eq_div (c : Config) (a : Nat) : shifted c a = a / 2 ^ c.offsetBits := Nat.shiftRight_eq_div_pow _ _

/-- Settles O19: the index reads the address only through its shift, which an aligned block shares and which a full
offset leaves no bit. -/
theorem offsetBitsDropped : Obligations.OffsetBitsDropped := by
  intro c a b
  refine ⟨fun hblock => ?aligned, fun hoff ha => ?full⟩
  case aligned => rw [index, index, shifted_eq_div, shifted_eq_div, hblock]
  case full =>
    have hshift : shifted c a = 0 := by rw [shifted_eq_div, hoff, Nat.div_eq_of_lt ha]
    rw [index, hshift, foldFields_zero]

/-! ### A placed word -/

/-- A placed word stands at the front of the host's inputs, cut to the receiving block's `CW_WIDTH` (log entry 2). -/
theorem withFetchWord_eq {s : State} {x : Block} (nbits w : Nat) (hx : s.block? s.rcv = some x) :
    s.withFetchWord nbits w =
      { s with host := .command s.rcv s.src (portWord x.cfg.addrWidth nbits w) :: s.host } := by
  simp only [State.withFetchWord, State.withNextWord, hx]

/-- Settles O8: taking the placed input selects the block and the peer that `s` selects already, so the command runs on
`s` itself. -/
theorem placedWordRunsNext : Obligations.PlacedWordRunsNext := by
  intro s nbits w x i hx hd
  rw [withFetchWord_eq nbits w hx]
  exact step_command rfl (fetch_ok.mpr ⟨x, hx, hd⟩)

/-! ### What a well-formed block holds -/

/-- The configuration of a well-formed block passes R148 to R156 (R25, R157). -/
theorem Block.Wf.valid {x : Block} (hx : x.Wf) : validate x.cfg = none := by
  obtain ⟨hlegal, -⟩ := hx
  obtain ⟨hvalid, -⟩ := legal_iff.mp hlegal
  exact hvalid

/-- On a well-formed block every address selects a counter, of at most CEIL (R22, R145). -/
theorem Block.Wf.readCount {x : Block} (hx : x.Wf) (a : Nat) :
    ∃ c, x.readCount (index x.cfg a) = some c ∧ c ≤ ceil x.cfg := by
  have ⟨_, hlen, hceil, _⟩ := hx
  have hi : index x.cfg a < x.cfg.size := index_lt_size hx.valid a
  have hi' : index x.cfg a < x.cnt.length := hlen ▸ hi
  exact ⟨x.cnt[index x.cfg a], readCount_eq_some.mpr ⟨hi, List.getElem?_eq_getElem hi'⟩,
    hceil _ (List.getElem_mem hi')⟩

/-- A count fits `rsp_data` (R100): the port is wide enough for SIZE counters at CEIL, and SIZE is at least 1. -/
theorem Block.Wf.count_fits {x : Block} {v : Nat} (hx : x.Wf) (hv : v ≤ ceil x.cfg) : v < 2 ^ totalWidth x.cfg := by
  obtain ⟨hsize, -, -⟩ := checks_of_valid hx.valid
  exact lt_two_pow_totalWidth (hv.trans (Nat.le_mul_of_pos_left _ hsize))

/-- The comparator's answer fits (R101): it is at most 1, and CEIL is at least THRESHOLD, which is at least 1. -/
theorem Block.Wf.comparator_fits {x : Block} (hx : x.Wf) (v : Nat) : comparator x.cfg v < 2 ^ totalWidth x.cfg := by
  obtain ⟨-, ⟨hone, hle⟩, -⟩ := checks_of_valid hx.valid
  exact hx.count_fits ((comparator_le_one _ _).trans (hone.trans hle))

/-- The total of all counters fits (R102, R105). -/
theorem Block.Wf.total_fits {x : Block} (hx : x.Wf) : x.cnt.sum < 2 ^ totalWidth x.cfg := by
  obtain ⟨-, hlen, hceil, -⟩ := hx
  have hsum : x.cnt.sum ≤ x.cnt.length • ceil x.cfg := List.sum_le_card_nsmul x.cnt (ceil x.cfg) hceil
  rw [hlen, smul_eq_mul] at hsum
  exact lt_two_pow_totalWidth hsum

/-! ### A SET, and the GETCOUNT after it -/

/-- SET on a running block (R82): the selected counter is incremented up to CEIL, and the answer is (OK, 0). -/
theorem exec_set {s : State} {x : Block} {a c : Nat} (hx : s.block? s.rcv = some x) (hf : x.fault = .none)
    (hr : x.readCount (index x.cfg a) = some c) :
    exec (.set a) s =
      .next (s.setBlock s.rcv ((x.writeCount (index x.cfg a) (satInc x.cfg c)).respond .ok 0)) :=
  runCommand_next.mpr ⟨x, hx, .inr ⟨hf, _, updateCount_next.mpr ⟨c, hr, satInc_le_ceil _ _, rfl⟩, rfl⟩⟩

/-- GETCOUNT on a running block (R100): the answer is the selected counter, and nothing else changes. -/
theorem exec_getCount {s : State} {x : Block} {a c : Nat} (hx : s.block? s.rcv = some x) (hf : x.fault = .none)
    (hr : x.readCount (index x.cfg a) = some c) (hfits : c < 2 ^ totalWidth x.cfg) :
    exec (.getCount a) s = .next (s.setBlock s.rcv (x.respond .ok c)) :=
  runCommand_next.mpr ⟨x, hx, .inr ⟨hf, _, queryCount_next.mpr ⟨c, hr, hfits, rfl⟩, rfl⟩⟩

/-- A written counter reads back (R9). -/
theorem readCount_writeCount {x : Block} {i c : Nat} (v : Nat) (h : x.readCount i = some c) :
    (x.writeCount i v).readCount i = some v := by
  obtain ⟨hi, hc⟩ := readCount_eq_some.mp h
  obtain ⟨hlen, -⟩ := List.getElem?_eq_some_iff.mp hc
  exact readCount_eq_some.mpr ⟨hi, List.getElem?_set_self hlen⟩

/-- Settles O49: the GETCOUNT reads the counter that the SET has written, since both addresses have one index. -/
theorem getCountSeesSet : Obligations.GetCountSeesSet := by
  intro s x a b hx hwf hf hab
  obtain ⟨c, hread, -⟩ := hwf.readCount b
  have hget : x.cnt[index x.cfg b]? = some c := (readCount_eq_some.mp hread).right
  have hset := exec_set hx hf (hab ▸ hread)
  rw [hab] at hset
  have hwritten := setBlock_same s s.rcv ((x.writeCount (index x.cfg b) (satInc x.cfg c)).respond .ok 0) hx
  have hcount := exec_getCount hwritten hf (readCount_writeCount (satInc x.cfg c) hread)
    (hwf.count_fits (satInc_le_ceil _ _))
  exact ⟨c, _, _, _, hget, hset, hcount, setBlock_same _ _ _ hwritten, rfl⟩

/-! ### Every command completes -/

/-- A command completes when its rule does on a running block: a halted one answers HALTED (R206, R208). -/
theorem runCommand_completes {s : State} {x : Block} {body : Block → Host.Outcome Block Fault Refusal}
    (hx : s.block? s.rcv = some x) (hb : ∃ y, body x = .next y) : ∃ t, s.runCommand body = .next t := by
  by_cases hf : x.fault = .none
  · obtain ⟨y, hy⟩ := hb
    exact ⟨_, runCommand_next.mpr ⟨x, hx, .inr ⟨hf, y, hy, rfl⟩⟩⟩
  · exact ⟨_, runCommand_halted hx hf⟩

/-- An update of the counter of an address completes when it writes at most CEIL (R82, R83). -/
theorem updateCount_completes {x : Block} {f : Nat → Nat} (hx : x.Wf) (a : Nat)
    (hf : ∀ c, c ≤ ceil x.cfg → f c ≤ ceil x.cfg) : ∃ y, x.updateCount (index x.cfg a) f = .next y := by
  obtain ⟨c, hread, hc⟩ := hx.readCount a
  exact ⟨_, updateCount_next.mpr ⟨c, hread, hf c hc, rfl⟩⟩

/-- A query of the counter of an address completes when its answer fits (R100, R101). -/
theorem queryCount_completes {x : Block} {f : Nat → Nat} (hx : x.Wf) (a : Nat)
    (hf : ∀ c, c ≤ ceil x.cfg → f c < 2 ^ totalWidth x.cfg) : ∃ y, x.queryCount (index x.cfg a) f = .next y := by
  obtain ⟨c, hread, hc⟩ := hx.readCount a
  exact ⟨_, queryCount_next.mpr ⟨c, hread, hf c hc, rfl⟩⟩

/-- A merge of well-formed blocks completes, compatible or not: a compatible peer has as many counters (R121, R122). -/
theorem mergeWith_completes {x p : Block} (hx : x.Wf) (hp : p.Wf) : ∃ y, x.mergeWith p.snapshot = .next y := by
  obtain ⟨-, hlen, -⟩ := hx
  obtain ⟨-, hplen, -⟩ := hp
  cases hc : compat x.cfg p.snapshot with
  | false => exact ⟨_, mergeWith_next.mpr (.inl ⟨hc, rfl⟩)⟩
  | true =>
    obtain ⟨hsize, -⟩ := compat_iff.mp hc
    exact ⟨_, mergeWith_next.mpr (.inr ⟨hc, hlen, hplen.trans hsize, rfl⟩)⟩

/-- Every command on a well-formed block with a well-formed block on the merge-source port completes (R53). -/
theorem exec_completes {s : State} {x p : Block} (i : Instr) (hx : s.block? s.rcv = some x) (hxw : x.Wf)
    (hp : s.block? s.src = some p) (hpw : p.Wf) : ∃ t, exec i s = .next t := by
  cases i with
  | set a => exact runCommand_completes hx (updateCount_completes hxw a fun c _ => satInc_le_ceil _ c)
  | unset a =>
    refine runCommand_completes hx ?_
    split
    · exact updateCount_completes hxw a fun _ => satDec_le_ceil
    · exact ⟨_, rfl⟩
  | getCount a => exact runCommand_completes hx (queryCount_completes hxw a fun _ => hxw.count_fits)
  | isSet a => exact runCommand_completes hx (queryCount_completes hxw a fun c _ => hxw.comparator_fits c)
  | getTotal a =>
    have ⟨_, hlen, _⟩ := hxw
    refine runCommand_completes hx ?_
    rw [readAll_eq_some.mpr ⟨hlen, rfl⟩]
    exact ⟨_, answer_next.mpr ⟨hxw.total_fits, rfl⟩⟩
  | merge a =>
    refine runCommand_completes hx ?_
    rw [hp]
    exact mergeWith_completes hxw hpw
  | _ a => exact runCommand_completes hx ⟨_, rfl⟩

/-! ### A well-driven system goes on -/

/-- The decoder is total on words of `CW_WIDTH` bits (R66). -/
theorem decode_of_lt {w cw : Nat} (h : cw < 2 ^ cwWidth w) :
    decode w cw = .ok (instrOfFields (opField cw) (addrField w cw)) := if_pos h

/-- Block `k` of a well-formed system with more than `k` blocks is there and well formed. -/
theorem State.Wf.block {s : State} {k : Nat} (hs : s.Wf) (hk : k < s.blocks.length) :
    ∃ x, s.block? k = some x ∧ x.Wf := by
  obtain ⟨hblocks, -⟩ := hs
  exact ⟨s.blocks[k], List.getElem?_eq_getElem hk, hblocks _ (List.getElem_mem hk)⟩

/-- With a legal input to take, or with none, a well-formed system makes its next step (R53, R230, R237). -/
theorem step_completes {s : State} (hs : s.Wf) (hd : s.WellDriven) : ∃ t, step s = .next t := by
  cases hh : s.host with
  | nil => exact ⟨s, step_next.mpr (.inl ⟨hh, rfl⟩)⟩
  | cons e rest =>
    have he : HostEvent.Legal s e := hd e (hh ▸ List.mem_cons_self)
    cases e with
    | reset k =>
      obtain ⟨x, hx, -⟩ := hs.block he
      exact ⟨_, step_reset hh hx⟩
    | command k p cw =>
      obtain ⟨hk, hp, hword⟩ := he
      obtain ⟨x, hx, hxw⟩ := hs.block hk
      obtain ⟨y, hy, hyw⟩ := hs.block hp
      have hdec := decode_of_lt (hword x (by simp [hx]))
      rw [step_command hh (fetch_ok.mpr ⟨x, hx, hdec⟩)]
      exact exec_completes (s := s.select k p rest) _ hx hxw hy hyw

/-- A step takes the host's first input and leaves the others. -/
theorem step_host {s t : State} (h : step s = .next t) : t.host = s.host.tail := by
  obtain ⟨hh, rfl⟩ | ⟨k, rest, x, hh, -, rfl⟩ | ⟨k, p, cw, rest, i, x, y, hh, -, -, rfl, -⟩ := step_effect h
  · rw [hh, List.tail_nil]
  · rw [hh, List.tail_cons, setBlock_host]
  · rw [hh, List.tail_cons, setBlock_host, select_host]

/-- What the host may present depends on the configurations alone (R31, R61, R215). -/
theorem HostEvent.Legal.of_map_cfg_eq {s t : State} {e : HostEvent}
    (h : t.blocks.map (·.cfg) = s.blocks.map (·.cfg)) (he : HostEvent.Legal s e) : HostEvent.Legal t e := by
  have hlen : t.blocks.length = s.blocks.length := by simpa using congrArg List.length h
  cases e with
  | reset k => exact Nat.lt_of_lt_of_eq he hlen.symm
  | command k p cw =>
    obtain ⟨hk, hp, hword⟩ := he
    refine ⟨Nat.lt_of_lt_of_eq hk hlen.symm, Nat.lt_of_lt_of_eq hp hlen.symm, fun y hy => ?_⟩
    have hy' : t.blocks[k]? = some y := by simpa [State.block?] using hy
    have hcfg : (s.blocks[k]?).map (·.cfg) = some y.cfg := by
      rw [← List.getElem?_map, ← h, List.getElem?_map, hy', Option.map_some]
    obtain ⟨x, hx, hxy⟩ := Option.map_eq_some_iff.mp hcfg
    rw [← hxy]
    exact hword x (by simp [State.block?, hx])

/-- A step keeps the inputs still to come legal: it takes one of them, and no configuration changes (R25). -/
theorem step_keeps_wellDriven {s t : State} (h : step s = .next t) (hd : s.WellDriven) : t.WellDriven := by
  intro e he
  rw [step_host h] at he
  exact (hd e (List.mem_of_mem_tail he)).of_map_cfg_eq (configurationNeverChanges s t h)

/-- Settles O44: well-formed and well-driven together are an invariant under which the next step is always there. -/
theorem wellDrivenNeverStops : Obligations.WellDrivenNeverStops := by
  intro s hs hd
  refine neverStops_of_invariant (Inv := fun s => s.Wf ∧ s.WellDriven) (fun s ⟨hs, hd⟩ => ?_) s ⟨hs, hd⟩
  obtain ⟨t, ht⟩ := step_completes hs hd
  exact ⟨t, ht, stepKeepsWellFormed s t hs ht, step_keeps_wellDriven ht hd⟩

end Sys2Proof.Machine
end

section
/-! PROOFS. The statements of 30_encoding.md: the fields of a command word and the opcode map (R61 to R63, R66), the
ignored `addr` field (R64), the inputs that are refused (log entry 5), and the one response to a command (R67, R68). -/

namespace Sys2Proof.Machine

/-! ### The fields of a command word -/

/-- The low four bits of a word are its opcode (R61). -/
theorem opField_toNat (cw : Nat) : (opField cw).toNat = cw % 16 := by
  rw [opField, slice, Nat.shiftRight_zero, BitVec.toNat_ofNat]
  exact Nat.mod_mod cw 16

/-- Without its opcode, a word of `CW_WIDTH` bits has `ADDR_WIDTH` bits (R61). -/
theorem div_sixteen_lt {A cw : Nat} (h : cw < 2 ^ cwWidth A) : cw / 16 < 2 ^ A :=
  Nat.div_lt_of_lt_mul (by rwa [cwWidth, Nat.pow_add, Nat.mul_comm] at h)

/-- The rest of a word of `CW_WIDTH` bits is its address, with no bit lost (R61, R63). -/
theorem addrField_eq_div {A cw : Nat} (h : cw < 2 ^ cwWidth A) : addrField A cw = cw / 16 := by
  have hwidth : cwWidth A - 1 + 1 - 4 = A := by rw [cwWidth]; omega
  rw [addrField, slice, hwidth, Nat.shiftRight_eq_div_pow]
  exact Nat.mod_eq_of_lt (div_sixteen_lt h)

/-! ### The opcode map -/

/-- An opcode is the number that its four bits write (R7). -/
theorem opcode_toNat_eq_bits : ∀ op : Opcode, op.toNat =
    8 * (op.getLsbD 3).toNat + 4 * (op.getLsbD 2).toNat + 2 * (op.getLsbD 1).toNat + (op.getLsbD 0).toNat := by
  decide

/-- The row of the map that the bits of `op` select is the row of `op` (R62). -/
theorem opcodeOf_instrOfFields (op : Opcode) (a : Nat) : opcodeOf (instrOfFields op a) = op := by
  unfold instrOfFields
  split
  all_goals
    rename_i h3 h2 h1 h0
    refine BitVec.eq_of_toNat_eq ?_
    rw [opcode_toNat_eq_bits op, h3, h2, h1, h0]
    rfl

/-- Every row of the map keeps the address (R61). -/
theorem addr_instrOfFields (op : Opcode) (a : Nat) : (instrOfFields op a).addr = a := by
  unfold instrOfFields
  split <;> rfl

/-- The opcode and the address of a command determine it (R62). -/
theorem instrOfFields_opcodeOf (i : Instr) : instrOfFields (opcodeOf i) i.addr = i := by
  cases i <;> simp [instrOfFields, opcodeOf, Instr.addr]

/-! ### Decoding and encoding -/

/-- A well-formed command is decoded from its own word: both fields read back, and the map has one command for them. -/
theorem decode_encode {A : Nat} {i : Instr} (hi : i.WellFormed A) : decode A (encode i) = .ok i := by
  obtain ⟨hmod, hdiv, hfits⟩ := Laws.EncodedFields.of_opcode_lt i
  have hop : opField (encode i) = opcodeOf i := BitVec.eq_of_toNat_eq ((opField_toNat _).trans hmod)
  have haddr : addrField A (encode i) = i.addr := (addrField_eq_div (hfits A hi)).trans hdiv
  rw [decode_of_lt (hfits A hi), hop, haddr, instrOfFields_opcodeOf]

/-- The command read from a word of `CW_WIDTH` bits has that word as its encoding (R61, R66). -/
theorem encode_instrOfFields {A cw : Nat} (h : cw < 2 ^ cwWidth A) :
    encode (instrOfFields (opField cw) (addrField A cw)) = cw := by
  rw [encode, addr_instrOfFields, opcodeOf_instrOfFields, opField_toNat, addrField_eq_div h]
  exact Nat.div_add_mod' cw 16

/-- The address read from a word has `ADDR_WIDTH` bits (R41, R61). -/
theorem wellFormed_instrOfFields {A cw : Nat} (h : cw < 2 ^ cwWidth A) :
    (instrOfFields (opField cw) (addrField A cw)).WellFormed A := by
  rw [Instr.WellFormed, addr_instrOfFields, addrField_eq_div h]
  exact div_sixteen_lt h

/-- A number of more than `CW_WIDTH` bits is no command word (log entry 5). -/
theorem decode_of_ge {A cw : Nat} (h : 2 ^ cwWidth A ≤ cw) : decode A cw = .error (.notACommandWord cw (cwWidth A)) :=
  if_neg h.not_gt

/-- Settles O3: the word fits because its address does, and its two fields read back. -/
theorem decodeOfEncode : Obligations.DecodeOfEncode := by
  intro A i hi
  obtain ⟨-, -, hfits⟩ := Laws.EncodedFields.of_opcode_lt i
  exact ⟨hfits A hi, decode_encode hi⟩

/-- Settles O2: each of the sixteen words is the encoding of the command of its row. -/
theorem opcodeMapDecodes : Obligations.OpcodeMapDecodes := by
  intro A a ha
  have row (i : Instr) (hi : i.addr = a) : decode A (encode i) = .ok i := decode_encode (hi.trans_lt ha)
  exact ⟨row (.reserved0 a) rfl, row (.set a) rfl, row (.unset a) rfl, row (.getCount a) rfl,
    row (.isSet a) rfl, row (.getTotal a) rfl, row (.clear a) rfl, row (.merge a) rfl,
    row (.reserved8 a) rfl, row (.reserved9 a) rfl, row (.reservedA a) rfl, row (.reservedB a) rfl,
    row (.reservedC a) rfl, row (.reservedD a) rfl, row (.reservedE a) rfl, row (.reservedF a) rfl⟩

/-- Settles O4: the command of the word's two fields is the one that the word decodes to, and encodes to the word. -/
theorem encodeOfDecode : Obligations.EncodeOfDecode := fun _ _ h =>
  ⟨_, decode_of_lt h, wellFormed_instrOfFields h, encode_instrOfFields h⟩

/-! ### One response per command -/

/-- What the response port shows after a command: HALTED without data on a block that was halted and stays so (R208); on
a running block the status of the FAULT it is left with (R67), with data only from a query that completes (R68). -/
theorem Effect.response {s : State} {x y : Block} {i : Instr} (h : Effect s x i y) :
    ∃ r, y.rsp = some r ∧
      ((x.fault ≠ .none ∧ y.fault = x.fault ∧ r = ⟨.halted, 0⟩) ∨
        (x.fault = .none ∧ r.status = y.fault.status ∧
          (r.data = 0 ∨ r.status = .ok ∧ ∃ a, i = .getCount a ∨ i = .isSet a ∨ i = .getTotal a))) := by
  have ok_status {f : FaultCode} (run : f = .none) : Status.ok = f.status := run ▸ rfl
  cases h with
  | halted hf => exact ⟨_, rfl, .inl ⟨hf, rfl, rfl⟩⟩
  | set run | unset run | clear run | merge run => exact ⟨_, rfl, .inr ⟨run, ok_status run, .inl rfl⟩⟩
  | unsupported run | incompatible run | illegal run => exact ⟨_, rfl, .inr ⟨run, rfl, .inl rfl⟩⟩
  | getCount run => exact ⟨_, rfl, .inr ⟨run, ok_status run, .inr ⟨rfl, _, .inl rfl⟩⟩⟩
  | isSet run => exact ⟨_, rfl, .inr ⟨run, ok_status run, .inr ⟨rfl, _, .inr (.inl rfl)⟩⟩⟩
  | getTotal run => exact ⟨_, rfl, .inr ⟨run, ok_status run, .inr ⟨rfl, _, .inr (.inr rfl)⟩⟩⟩

/-- Settles O46: the two kinds of response, on a halted and on a running block; only the running one writes FAULT. -/
theorem oneResponsePerCommand : Obligations.OneResponsePerCommand := by
  intro i s t x h hx
  obtain ⟨y, hy, he⟩ := exec_receiver h hx
  obtain ⟨r, hr, ⟨halted, hkept, rfl⟩ | ⟨run, hstatus, hdata⟩⟩ := he.response
  · exact ⟨y, _, hy, hr, fun _ => ⟨rfl, hkept⟩, fun run => absurd run halted, fun hne => absurd hkept hne,
      fun hne => absurd rfl hne⟩
  · exact ⟨y, r, hy, hr, fun halted => absurd run halted, fun _ => hstatus, fun _ => hstatus, hdata.resolve_left⟩

/-! ### Inputs that are refused (log entry 5) -/

/-- The system has no block at and above its number of blocks (R215). -/
theorem block?_eq_none {s : State} {k : Nat} (h : s.blocks.length ≤ k) : s.block? k = none :=
  List.getElem?_eq_none h

/-- A step whose next input is a command that the port refuses stops with that refusal. -/
theorem step_command_refused {s : State} {k p cw : Nat} {rest : List HostEvent} {r : Refusal}
    (hh : s.host = .command k p cw :: rest) (hf : (s.select k p rest).fetch cw = .error r) :
    step s = .refused r := by
  simp only [step, hh, hf]

/-- A word of more than `CW_WIDTH` bits of the receiving block is refused. -/
theorem fetch_overwide {s : State} {x : Block} {cw : Nat} (hx : s.block? s.rcv = some x)
    (h : 2 ^ cwWidth x.cfg.addrWidth ≤ cw) : s.fetch cw = .error (.notACommandWord cw) := by
  simp only [State.fetch, hx, decode_of_ge h]

/-- A command word for a block that is not there is refused. -/
theorem fetch_noSuchBlock {s : State} (h : s.block? s.rcv = none) (cw : Nat) :
    s.fetch cw = .error (.noSuchBlock s.rcv) := by
  simp only [State.fetch, h]

/-- A reset of a block that is not there is refused. -/
theorem resetBlock_noSuchBlock {s : State} {k : Nat} (h : s.block? k = none) :
    s.resetBlock k = .refused (.noSuchBlock k) := by
  simp only [State.resetBlock, State.onBlock, h]

/-- A step whose next input is such a reset stops with that refusal. -/
theorem step_reset_noSuchBlock {s : State} {k : Nat} {rest : List HostEvent} (hh : s.host = .reset k :: rest)
    (h : s.block? k = none) : step s = .refused (.noSuchBlock k) := by
  rw [step, hh]
  exact resetBlock_noSuchBlock h

/-- A MERGE on a running block needs a peer on the merge-source port (R120). -/
theorem exec_merge_noPeer {s : State} {x : Block} (a : Nat) (hx : s.block? s.rcv = some x) (hf : x.fault = .none)
    (hp : s.block? s.src = none) : exec (.merge a) s = .refused (.noPeer s.src) := by
  show execMerge s = _
  rw [execMerge, runCommand_running hx hf, hp]

/-- Settles O5: the port refuses the overwide word and the missing block, and MERGE the missing peer. -/
theorem unpresentableInputRefused : Obligations.UnpresentableInputRefused := by
  intro s k p cw a rest
  refine ⟨fun x hh hx hwide => ?overwide, fun hk hh => ?noBlock, fun x hx hf hsrc => ?noPeer⟩
  case overwide => exact ⟨decode_of_ge hwide, step_command_refused hh (fetch_overwide hx hwide)⟩
  case noBlock =>
    have hnone : s.block? k = none := block?_eq_none hk
    obtain hcommand | hreset := hh
    · exact step_command_refused hcommand (fetch_noSuchBlock hnone cw)
    · exact step_reset_noSuchBlock hreset hnone
  case noPeer => exact exec_merge_noPeer a hx hf (block?_eq_none hsrc)

/-! ### The ignored `addr` field -/

/-- Settles O6: the meanings of these twelve commands take no address, so both sides run the same one (R64). -/
theorem addrFieldIgnored : Obligations.AddrFieldIgnored := fun _ _ _ =>
  ⟨rfl, rfl, rfl, rfl, rfl, rfl, rfl, rfl, rfl, rfl, rfl, rfl⟩

end Sys2Proof.Machine
end

section
/-! PROOFS. The statements of 40_counter_update.md: the saturating operations (R80, R81, R123), SET, UNSET and CLEAR
(R82 to R85), and the counters after a run of SETs, alone (R87) and against the reference model (R170, R173). -/

namespace Sys2Proof.Machine

/-! ### Saturating arithmetic -/

/-- CEIL is at least 1 where a counter has a bit (R149). -/
theorem one_le_ceil {cfg : Config} (h : 1 ≤ cfg.counterWidth) : 1 ≤ ceil cfg := by
  have : 2 ≤ 2 ^ cfg.counterWidth := Nat.le_self_pow (Nat.one_le_iff_ne_zero.mp h) 2
  rw [ceil, mask]
  omega

theorem one_le_satInc {cfg : Config} (h : 1 ≤ cfg.counterWidth) (c : Nat) : 1 ≤ satInc cfg c :=
  le_min (Nat.le_add_left 1 c) (one_le_ceil h)

theorem satInc_ceil (cfg : Config) : satInc cfg (ceil cfg) = ceil cfg := min_eq_right (Nat.le_succ _)

/-- An increment is undone by a decrement, unless it was lost at CEIL (R85). -/
theorem satDec_satInc {cfg : Config} {c : Nat} (h : c ≤ ceil cfg) :
    satDec (satInc cfg c) = if c < ceil cfg then c else ceil cfg - 1 := by
  rw [satDec_eq, satInc]
  split <;> omega

theorem satAdd_zero {cfg : Config} {c : Nat} (h : c ≤ ceil cfg) : satAdd cfg c 0 = c := min_eq_left h

/-- Two amounts added one after the other saturate as their sum does. -/
theorem satAdd_satAdd (cfg : Config) (c m n : Nat) : satAdd cfg (satAdd cfg c m) n = satAdd cfg c (m + n) := by
  simp only [satAdd]
  omega

/-- Settles O21: each operation is its formula, and a counter of at least one bit has a CEIL of at least 1. -/
theorem saturatingArithmetic : Obligations.SaturatingArithmetic := by
  intro c hwidth
  refine ⟨fun v _ => ⟨rfl, one_le_satInc hwidth v, satInc_le_ceil c v⟩, satInc_ceil c, fun v hv => ?dec,
    satDec_eq 0, fun v w _ => ⟨rfl, satAdd_le_ceil c v w⟩⟩
  case dec =>
    rw [satDec_eq]
    omega

/-! ### SET, UNSET and CLEAR on a running block -/

/-- A counter of a well-formed block is at most CEIL (R22). -/
theorem Block.Wf.count_le {x : Block} {i c : Nat} (hx : x.Wf) (hc : x.cnt[i]? = some c) : c ≤ ceil x.cfg := by
  obtain ⟨-, -, hceil, -⟩ := hx
  exact hceil c (List.mem_of_getElem? hc)

/-- UNSET on a running block with HAS_UNSET (R83): the selected counter is decremented down to 0, and the answer is
(OK, 0). -/
theorem exec_unset {s : State} {x : Block} {a c : Nat} (hx : s.block? s.rcv = some x) (hf : x.fault = .none)
    (has : x.cfg.hasUnset = true) (hr : x.readCount (index x.cfg a) = some c) (hle : satDec c ≤ ceil x.cfg) :
    exec (.unset a) s =
      .next (s.setBlock s.rcv ((x.writeCount (index x.cfg a) (satDec c)).respond .ok 0)) :=
  runCommand_next.mpr
    ⟨x, hx, .inr ⟨hf, _, (if_pos has).trans (updateCount_next.mpr ⟨c, hr, hle, rfl⟩), rfl⟩⟩

/-- Settles O22: the address of a well-formed block selects a counter, and SET writes its increment there. -/
theorem setIncrementsCounter : Obligations.SetIncrementsCounter := by
  intro s x a hx hwf hf
  obtain ⟨c, hread, -⟩ := hwf.readCount a
  obtain ⟨-, hget⟩ := readCount_eq_some.mp hread
  exact ⟨c, hget, exec_set hx hf hread⟩

/-- Settles O23: the integer floor of UNSET is subtraction of naturals, and stays below CEIL. -/
theorem unsetDecrementsCounter : Obligations.UnsetDecrementsCounter := by
  intro s x a hx hwf hf has
  obtain ⟨c, hread, hc⟩ := hwf.readCount a
  obtain ⟨-, hget⟩ := readCount_eq_some.mp hread
  have hunset := exec_unset hx hf has hread (satDec_le_ceil hc)
  rw [satDec_eq] at hunset
  exact ⟨c, hget, hunset⟩

/-- Settles O25: the rule of CLEAR runs in the frame of a running block and makes no access that could stop. -/
theorem clearZeroesEveryCounter : Obligations.ClearZeroesEveryCounter := fun _ x _ hx hf =>
  runCommand_next.mpr ⟨x, hx, .inr ⟨hf, _, rfl, rfl⟩⟩

/-- Settles O50: UNSET reads the counter that SET has written, and its write replaces that of SET. -/
theorem unsetOfCollidingAddress : Obligations.UnsetOfCollidingAddress := by
  intro s x a b c hx hwf hf has hab hc
  have hread : x.readCount (index x.cfg a) = some c := readCount_eq_some.mpr ⟨index_lt_size hwf.valid a, hc⟩
  have hset := exec_set hx hf hread
  rw [hab] at hset hread ⊢
  have hwritten := setBlock_same s s.rcv ((x.writeCount (index x.cfg b) (satInc x.cfg c)).respond .ok 0) hx
  have hunset := exec_unset hwritten hf has (readCount_writeCount (satInc x.cfg c) hread)
    (satDec_le_ceil (satInc_le_ceil _ _))
  refine ⟨_, _, _, hset, hunset, setBlock_same _ _ _ hwritten, ?_⟩
  calc (x.cnt.set (index x.cfg b) (satInc x.cfg c)).set (index x.cfg b) (satDec (satInc x.cfg c))
      = x.cnt.set (index x.cfg b) (satDec (satInc x.cfg c)) := List.set_set ..
    _ = x.cnt.set (index x.cfg b) (if c < ceil x.cfg then c else ceil x.cfg - 1) := by
      rw [satDec_satInc (hwf.count_le hc)]

/-! ### A run of SETs -/

/-- How many of the addresses `as` select counter `i` (R87). -/
def hits (cfg : Config) (as : List Nat) (i : Nat) : Nat := as.countP fun a => decide (index cfg a = i)

theorem hits_append (cfg : Config) (as bs : List Nat) (i : Nat) :
    hits cfg (as ++ bs) i = hits cfg as i + hits cfg bs i := List.countP_append

theorem hits_self (cfg : Config) (a : Nat) : hits cfg [a] (index cfg a) = 1 := by
  simp [hits]

theorem hits_other {cfg : Config} {a i : Nat} (h : index cfg a ≠ i) : hits cfg [a] i = 0 := by
  simp [hits, h]

/-- A listed address hits its own counter. -/
theorem one_le_hits {cfg : Config} {a : Nat} {as : List Nat} (h : a ∈ as) : 1 ≤ hits cfg as (index cfg a) :=
  List.countP_pos_iff.mpr ⟨a, h, decide_eq_true rfl⟩

/-- `y` is what SETs of the addresses `as` make of a running block `x`: running, with the configuration of `x` (R25),
and with every counter up by its hits, clamped to CEIL (R82, R87). -/
structure AfterSets (x : Block) (as : List Nat) (y : Block) : Prop where
  wf : y.Wf
  running : y.fault = .none
  cfg : y.cfg = x.cfg
  counts : ∀ i v, x.cnt[i]? = some v → y.cnt[i]? = some (satAdd x.cfg v (hits x.cfg as i))

theorem AfterSets.none {x : Block} (hwf : x.Wf) (hf : x.fault = .none) : AfterSets x [] x where
  wf := hwf
  running := hf
  cfg := rfl
  counts i v hv := by
    have : satAdd x.cfg v (hits x.cfg [] i) = v := satAdd_zero (hwf.count_le hv)
    rw [this, hv]

/-- One SET is the case of one address: its counter has one hit, the others have none. -/
theorem AfterSets.one {x : Block} {a c : Nat} (hwf : x.Wf) (hf : x.fault = .none)
    (hread : x.readCount (index x.cfg a) = some c) :
    AfterSets x [a] ((x.writeCount (index x.cfg a) (satInc x.cfg c)).respond .ok 0) where
  wf := respond_wf (writeCount_wf hwf (satInc_le_ceil _ _)) (fits_zero _ _)
  running := hf
  cfg := rfl
  counts i v hv := by
    rw [respond_cnt]
    by_cases hi : index x.cfg a = i
    · subst hi
      obtain ⟨-, hc⟩ := readCount_eq_some.mp hread
      obtain rfl : c = v := Option.some.inj (hc.symm.trans hv)
      obtain ⟨-, hwritten⟩ := readCount_eq_some.mp (readCount_writeCount (satInc x.cfg c) hread)
      rw [hits_self, hwritten]
      rfl
    · obtain ⟨-, hother⟩ := writeCount_frame x (index x.cfg a) (satInc x.cfg c)
      rw [hits_other hi, satAdd_zero (hwf.count_le hv), hother i (Ne.symm hi), hv]

/-- Two runs of SETs one after the other are one run of both. -/
theorem AfterSets.append {x y z : Block} {as bs : List Nat} (hxy : AfterSets x as y) (hyz : AfterSets y bs z) :
    AfterSets x (as ++ bs) z where
  wf := hyz.wf
  running := hyz.running
  cfg := hyz.cfg.trans hxy.cfg
  counts i v hv := by
    rw [hyz.counts i _ (hxy.counts i v hv), hxy.cfg, satAdd_satAdd, hits_append]

/-- A step that takes a SET for a running well-formed block, seen from that block (R10, R82). -/
theorem step_set {s : State} {k p a : Nat} {rest : List HostEvent} {x : Block}
    (hh : s.host = .command k p (encode (.set a)) :: rest) (hx : s.block? k = some x) (hwf : x.Wf)
    (hf : x.fault = .none) (ha : a < 2 ^ x.cfg.addrWidth) :
    ∃ t y, step s = .next t ∧ t.host = rest ∧ t.block? k = some y ∧ AfterSets x [a] y := by
  obtain ⟨c, hread, -⟩ := hwf.readCount a
  have hfetch : (s.select k p rest).fetch (encode (.set a)) = .ok (.set a) :=
    fetch_ok.mpr ⟨x, hx, decode_encode ha⟩
  have hstep := (step_command hh hfetch).trans (exec_set (s := s.select k p rest) hx hf hread)
  exact ⟨_, _, hstep, rfl, setBlock_same (s.select k p rest) k _ hx, .one hwf hf hread⟩

/-- A run whose inputs are SETs for one running well-formed block. -/
theorem run_sets {s : State} {k p : Nat} {x : Block} {as : List Nat} (hx : s.block? k = some x) (hwf : x.Wf)
    (hf : x.fault = .none) (ha : ∀ a ∈ as, a < 2 ^ x.cfg.addrWidth)
    (hh : s.host = as.map fun a => .command k p (encode (.set a))) :
    ∃ t y, Host.Core.run Sys2Proof.core as.length s = .next t ∧ t.block? k = some y ∧ AfterSets x as y := by
  induction as generalizing s x with
  | nil => exact ⟨s, x, rfl, hx, .none hwf hf⟩
  | cons a as ih =>
    obtain ⟨hfirst, hrest⟩ := List.forall_mem_cons.mp ha
    obtain ⟨t, y, hstep, hhost, hy, hxy⟩ := step_set hh hx hwf hf hfirst
    obtain ⟨u, z, hrun, hz, hyz⟩ := ih hy hxy.wf hxy.running (hxy.cfg ▸ hrest) hhost
    exact ⟨u, z, (run_succ_of_next hstep).trans hrun, hz, hxy.append hyz⟩

/-- Settles O54: from 0 the counters go up by their hits, by induction over the run. -/
theorem countsAfterSets : Obligations.CountsAfterSets := by
  intro s k p x as hx hwf hf hzero ha hh
  obtain ⟨t, y, hrun, hy, hsets⟩ := run_sets hx hwf hf ha hh
  have ⟨_, hxlen, _, _⟩ := hwf
  have ⟨_, hylen, _, _⟩ := hsets.wf
  refine ⟨t, y, hrun, hy, hsets.running, hylen.trans (congrArg Config.size hsets.cfg), fun i hi => ?_⟩
  have hi' : i < x.cnt.length := hxlen ▸ hi
  have hget : x.cnt[i]? = some 0 := by
    rw [List.getElem?_eq_getElem hi', hzero _ (List.getElem_mem hi')]
  have hcount := hsets.counts i 0 hget
  rw [satAdd, Nat.zero_add] at hcount
  exact hcount

/-! ### Against the reference model -/

/-- A newly built oracle is running and has no key at 1 (R171, R172). -/
theorem oracle_build_eq_some {u : Bool} {o : Oracle} :
    Oracle.build 1 1 1 u = some o ↔ o = ⟨u, [], .none⟩ := by
  simp [Oracle.build, eq_comm]

/-- After a run of `set`s on a running oracle the keys at 1 are those set and those that were at 1 (R173). -/
theorem mem_keys_foldl_set {o : Oracle} (as : List Nat) (h : o.fault = .none) (a : Nat) :
    a ∈ (as.foldl (fun q b => (q.set b).1) o).keys ↔ a ∈ as ∨ a ∈ o.keys := by
  induction as generalizing o with
  | nil => simp
  | cons b as ih =>
    have hfault : (o.set b).1.fault = .none := by rw [oracle_set h, h]
    have hkeys : (o.set b).1.keys = insertKey b o.keys := by rw [oracle_set h]
    rw [List.foldl_cons, ih hfault, hkeys, mem_insertKey, List.mem_cons, or_left_comm, or_assoc]

/-- Settles O60: an address that the oracle counts was set, so it has hit its counter, and CEIL is at least 1. -/
theorem blockCountsAtLeastOracle : Obligations.BlockCountsAtLeastOracle := by
  intro s k p x as o hx hwf hf hzero ha hh ho
  obtain rfl := oracle_build_eq_some.mp ho
  obtain ⟨t, y, hrun, hy, -, -, hcounts⟩ := countsAfterSets s k p x as hx hwf hf hzero ha hh
  refine ⟨t, y, hrun, hy, fun a => ⟨_, hcounts _ (index_lt_size hwf.valid a), ?_⟩⟩
  obtain ⟨-, ⟨hone, hle⟩, -⟩ := checks_of_valid hwf.valid
  rw [Oracle.count]
  split
  case isFalse => exact Nat.zero_le _
  case isTrue hkey =>
    have hset : a ∈ as := ((mem_keys_foldl_set as rfl a).mp hkey).resolve_right List.not_mem_nil
    exact le_min (one_le_hits hset) (hone.trans hle)

end Sys2Proof.Machine
end

section
/-! PROOFS. The statements of 41_queries.md: what GETCOUNT, ISSET and GETTOTAL answer (R100 to R102, R105), that they
change no state (R103), and how ISSET agrees with GETCOUNT (R104). -/

namespace Sys2Proof.Machine

/-! ### The three queries on a running block -/

/-- ISSET on a running block (R101): the comparator judges the selected counter, and nothing else changes. -/
theorem exec_isSet {s : State} {x : Block} {a c : Nat} (hx : s.block? s.rcv = some x) (hf : x.fault = .none)
    (hr : x.readCount (index x.cfg a) = some c) (hfits : comparator x.cfg c < 2 ^ totalWidth x.cfg) :
    exec (.isSet a) s = .next (s.setBlock s.rcv (x.respond .ok (comparator x.cfg c))) :=
  runCommand_next.mpr ⟨x, hx, .inr ⟨hf, _, queryCount_next.mpr ⟨c, hr, hfits, rfl⟩, rfl⟩⟩

/-- GETTOTAL on a running block with SIZE counters (R102): the answer is their sum, and nothing else changes. -/
theorem exec_getTotal {s : State} {x : Block} (a : Nat) (hx : s.block? s.rcv = some x) (hf : x.fault = .none)
    (hlen : x.cnt.length = x.cfg.size) (hfits : x.cnt.sum < 2 ^ totalWidth x.cfg) :
    exec (.getTotal a) s = .next (s.setBlock s.rcv (x.respond .ok x.cnt.sum)) := by
  refine runCommand_next.mpr ⟨x, hx, .inr ⟨hf, _, ?_, rfl⟩⟩
  rw [readAll_eq_some.mpr ⟨hlen, rfl⟩]
  exact answer_next.mpr ⟨hfits, rfl⟩

/-- SIZE counters of at most CEIL sum to at most SIZE × CEIL (R105). -/
theorem Block.Wf.total_le {x : Block} (hx : x.Wf) : x.cnt.sum ≤ x.cfg.size * ceil x.cfg := by
  obtain ⟨-, hlen, hceil, -⟩ := hx
  calc x.cnt.sum ≤ x.cnt.length * ceil x.cfg := List.sum_le_card_nsmul x.cnt (ceil x.cfg) hceil
    _ = x.cfg.size * ceil x.cfg := by rw [hlen]

/-- Settles O26: every address of a well-formed block selects a counter, whose count fits the port. -/
theorem getCountReadsCounter : Obligations.GetCountReadsCounter := by
  intro s x a hx hwf hf
  obtain ⟨c, hread, hc⟩ := hwf.readCount a
  obtain ⟨-, hget⟩ := readCount_eq_some.mp hread
  exact ⟨c, hget, exec_getCount hx hf hread (hwf.count_fits hc)⟩

/-- Settles O27: the comparator is the comparison of R101, and its answer fits the port. -/
theorem isSetComparesThreshold : Obligations.IsSetComparesThreshold := by
  intro s x a hx hwf hf
  obtain ⟨c, hread, -⟩ := hwf.readCount a
  obtain ⟨-, hget⟩ := readCount_eq_some.mp hread
  exact ⟨c, hget, exec_isSet hx hf hread (hwf.comparator_fits c)⟩

/-- Settles O28: the sum is at most SIZE × CEIL, for which `TOTAL_WIDTH` is wide enough. -/
theorem getTotalSumsCounters : Obligations.GetTotalSumsCounters := by
  intro s x a hx hwf hf
  have ⟨_, hlen, _⟩ := hwf
  exact ⟨exec_getTotal a hx hf hlen hwf.total_fits, hwf.total_le, lt_two_pow_totalWidth le_rfl⟩

/-! ### Queries change no state -/

/-- Of two writes to one block the second stands. -/
theorem setBlock_setBlock (s : State) (k : Nat) (x y : Block) :
    (s.setBlock k x).setBlock k y = s.setBlock k y := by
  simp [State.setBlock]

/-- A rule that only answers: it writes the response port and nothing else, and what it has written does not change its
answer (R103). -/
def AnswersOnly (body : Block → Host.Outcome Block Fault Refusal) : Prop :=
  ∀ x y, body x = .next y → (∃ r, y = { x with rsp := some r }) ∧ body y = .next y

/-- A query of a counter looks at the configuration and the counters, not at the port (R100, R101). -/
theorem queryCount_answersOnly (a : Nat) (f : Config → Nat → Nat) :
    AnswersOnly fun x => x.queryCount (index x.cfg a) (f x.cfg) := by
  intro x y h
  obtain ⟨c, hread, hfits, rfl⟩ := queryCount_next.mp h
  exact ⟨⟨_, rfl⟩, queryCount_next.mpr ⟨c, hread, hfits, rfl⟩⟩

/-- The rule of each query command only answers. -/
theorem query_answersOnly {i : Instr} {a : Nat} (hi : i = .getCount a ∨ i = .isSet a ∨ i = .getTotal a) :
    ∃ body, AnswersOnly body ∧ ∀ s, exec i s = s.runCommand body := by
  obtain rfl | rfl | rfl := hi
  case inl => exact ⟨_, queryCount_answersOnly a fun _ => id, fun _ => rfl⟩
  case inr.inl => exact ⟨_, queryCount_answersOnly a comparator, fun _ => rfl⟩
  case inr.inr =>
    refine ⟨_, fun x y h => ?_, fun _ => rfl⟩
    split at h
    · cases h
    · rename_i cs hcs
      obtain ⟨hlen, rfl⟩ := readAll_eq_some.mp hcs
      obtain ⟨hfits, rfl⟩ := answer_next.mp h
      have hread : (x.respond .ok x.cnt.sum).readAll = some x.cnt := readAll_eq_some.mpr ⟨hlen, rfl⟩
      refine ⟨⟨_, rfl⟩, ?_⟩
      rw [hread]
      exact answer_next.mpr ⟨hfits, rfl⟩

/-- A command whose rule only answers writes the port of the receiving block, halted or not, and does the same again
when repeated (R103, R208). -/
theorem runCommand_answersOnly {s t : State} {x : Block} {body : Block → Host.Outcome Block Fault Refusal}
    (hb : AnswersOnly body) (hx : s.block? s.rcv = some x) (h : s.runCommand body = .next t) :
    (∃ r, t = s.setBlock s.rcv { x with rsp := some r }) ∧ t.runCommand body = .next t := by
  obtain ⟨x', hx', hcase⟩ := runCommand_next.mp h
  obtain rfl : x = x' := Option.some.inj (hx.symm.trans hx')
  obtain ⟨hf, rfl⟩ | ⟨hf, y, hy, rfl⟩ := hcase
  · refine ⟨⟨_, rfl⟩, (runCommand_halted (setBlock_same s _ x.refuseHalted hx) hf).trans ?_⟩
    exact congrArg _ (setBlock_setBlock s s.rcv _ _)
  · obtain ⟨⟨r, rfl⟩, hagain⟩ := hb x y hy
    exact ⟨⟨r, rfl⟩, runCommand_next.mpr
      ⟨_, setBlock_same s _ _ hx, .inr ⟨hf, _, hagain, (setBlock_setBlock s s.rcv _ _).symm⟩⟩⟩

/-- Settles O36: the three rules only answer. -/
theorem queriesChangeNothing : Obligations.QueriesChangeNothing := by
  intro s t x a i hx hi h
  obtain ⟨body, hbody, hexec⟩ := query_answersOnly hi
  rw [hexec] at h ⊢
  exact runCommand_answersOnly hbody hx h

/-! ### ISSET against the count -/

theorem comparator_eq_one {c : Config} {v : Nat} : comparator c v = 1 ↔ c.threshold ≤ v := by
  simp [comparator]

theorem comparator_eq_zero {c : Config} {v : Nat} : comparator c v = 0 ↔ v < c.threshold := by
  simp [comparator]

/-- Settles O47: both queries read the same counter. -/
theorem isSetAgreesWithGetCount : Obligations.IsSetAgreesWithGetCount := by
  intro s x a hx hwf hf
  obtain ⟨c, hread, hc⟩ := hwf.readCount a
  refine ⟨_, _, _, _, c, exec_getCount hx hf hread (hwf.count_fits hc), setBlock_same s _ _ hx, rfl,
    exec_isSet hx hf hread (hwf.comparator_fits c), setBlock_same s _ _ hx, ?one, ?zero⟩
  case one => simp [comparator_eq_one]
  case zero => simp [comparator_eq_zero]

/-- After one SET the counter of its address is its increment (R82). -/
theorem AfterSets.count_self {x y : Block} {a c : Nat} (h : AfterSets x [a] y)
    (hc : x.cnt[index x.cfg a]? = some c) : y.cnt[index y.cfg a]? = some (satInc x.cfg c) := by
  have hcount := h.counts _ c hc
  rw [hits_self] at hcount
  rw [h.cfg]
  exact hcount

/-- SET and then ISSET of one address: ISSET compares the incremented counter (R82, R101). -/
theorem exec_set_isSet {s : State} {x : Block} {a c : Nat} (hx : s.block? s.rcv = some x) (hwf : x.Wf)
    (hf : x.fault = .none) (hc : x.cnt[index x.cfg a]? = some c) :
    ∃ s' t y z, exec (.set a) s = .next s' ∧ s'.rcv = s.rcv ∧ s'.block? s.rcv = some y ∧ AfterSets x [a] y ∧
      exec (.isSet a) s' = .next t ∧ t.block? s.rcv = some z ∧
      z.rsp = some ⟨.ok, comparator x.cfg (satInc x.cfg c)⟩ := by
  have hread : x.readCount (index x.cfg a) = some c := readCount_eq_some.mpr ⟨index_lt_size hwf.valid a, hc⟩
  have hwritten := setBlock_same s s.rcv ((x.writeCount (index x.cfg a) (satInc x.cfg c)).respond .ok 0) hx
  have hisSet := exec_isSet hwritten hf (readCount_writeCount (satInc x.cfg c) hread) (hwf.comparator_fits _)
  exact ⟨_, _, _, _, exec_set hx hf hread, rfl, hwritten, .one hwf hf hread, hisSet,
    setBlock_same _ _ _ hwritten, rfl⟩

/-- Settles O48: CEIL is at least THRESHOLD, so the SETs bring the counter to 1, below THRESHOLD, and to 2. -/
theorem secondSetReachesThreshold : Obligations.SecondSetReachesThreshold := by
  intro s x a hx hwf hf hthreshold hzero
  obtain ⟨-, ⟨-, hceil⟩, -⟩ := checks_of_valid hwf.valid
  rw [hthreshold] at hceil
  have hfirst : satInc x.cfg 0 = 1 := min_eq_left (by omega)
  have hsecond : satInc x.cfg 1 = 2 := min_eq_left hceil
  obtain ⟨s1, t1, x1, y, hset1, hrcv, hx1, hafter, hisSet1, hy, hyrsp⟩ := exec_set_isSet hx hwf hf hzero
  have hone : x1.cnt[index x1.cfg a]? = some 1 := hfirst ▸ hafter.count_self hzero
  rw [← hrcv] at hx1
  obtain ⟨s2, t2, x2, z, hset2, -, -, -, hisSet2, hz, hzrsp⟩ :=
    exec_set_isSet hx1 hafter.wf hafter.running hone
  rw [hrcv] at hz
  rw [hfirst, comparator_eq_zero.mpr (by omega)] at hyrsp
  rw [hafter.cfg, hsecond, comparator_eq_one.mpr hthreshold.le] at hzrsp
  exact ⟨s1, s2, t1, t2, y, z, hset1, hisSet1, hy, hyrsp, hset2, hisSet2, hz, hzrsp⟩

end Sys2Proof.Machine
end

section
/-! PROOFS. The statements of 42_merge.md: when a MERGE completes and when it takes COMPAT_ERROR (R121, R122, R127), a
block merged into itself (R124), two blocks merged into each other (R125), and the total after a merge (R126). -/

namespace Sys2Proof.Machine

/-! ### A MERGE on a running block -/

/-- MERGE on a running block with a peer: the rule of R122 on the peer's snapshot decides the block that is put back. -/
theorem exec_merge {s : State} {x p y : Block} (a : Nat) (hx : s.block? s.rcv = some x)
    (hp : s.block? s.src = some p) (hf : x.fault = .none) (hy : x.mergeWith p.snapshot = .next y) :
    exec (.merge a) s = .next (s.setBlock s.rcv y) := by
  refine runCommand_next.mpr ⟨x, hx, .inr ⟨hf, y, ?_, rfl⟩⟩
  rw [hp]
  exact hy

/-- A compatible MERGE of well-formed blocks (R122): every counter is the clamped sum, and the answer is (OK, 0). -/
theorem exec_merge_compatible {s : State} {x p : Block} (a : Nat) (hx : s.block? s.rcv = some x)
    (hp : s.block? s.src = some p) (hxw : x.Wf) (hpw : p.Wf) (hf : x.fault = .none)
    (hc : compat x.cfg p.snapshot = true) :
    exec (.merge a) s = .next (s.setBlock s.rcv
      { x with cnt := mergeCounts x.cfg x.cnt p.cnt, rsp := some ⟨.ok, 0⟩ }) := by
  obtain ⟨-, hlen, -⟩ := hxw
  obtain ⟨-, hplen, -⟩ := hpw
  obtain ⟨hsize, -⟩ := compat_iff.mp hc
  exact exec_merge a hx hp hf (mergeWith_next.mpr (.inr ⟨hc, hlen, hplen.trans hsize, rfl⟩))

/-- An incompatible MERGE takes COMPAT_ERROR (R204): FAULT and the response change, and no counter. -/
theorem exec_merge_incompatible {s : State} {x p : Block} (a : Nat) (hx : s.block? s.rcv = some x)
    (hp : s.block? s.src = some p) (hf : x.fault = .none) (hc : ¬ compat x.cfg p.snapshot = true) :
    exec (.merge a) s = .next (s.setBlock s.rcv (x.raise .compatError)) :=
  exec_merge a hx hp hf (mergeWith_next.mpr (.inl ⟨Bool.eq_false_iff.mpr hc, rfl⟩))

/-- A block is compatible with itself, under either setting of MERGE_CHECK (R124). -/
theorem compat_snapshot_self (x : Block) : compat x.cfg x.snapshot = true :=
  compat_iff.mpr ⟨rfl, fun _ => ⟨rfl, rfl, rfl, rfl, rfl⟩⟩

/-- A MERGE answers OK only where it has merged: the receiver was running with SIZE counters, the peer had as many, and
every counter is the clamped sum (R122). -/
theorem Effect.merge_ok {s : State} {x p y : Block} {a : Nat} (h : Effect s x (.merge a) y)
    (hp : s.block? s.src = some p) (hok : y.rsp = some ⟨.ok, 0⟩) :
    y.fault = .none ∧ x.cnt.length = p.cnt.length ∧ y.cnt = mergeCounts x.cfg x.cnt p.cnt := by
  cases h with
  | halted => cases hok
  | merge run peer _ shape peerShape =>
    cases peer.symm.trans hp
    exact ⟨run, shape.trans peerShape.symm, rfl⟩
  | incompatible => cases hok
  | illegal => cases hok

/-- The counters that an OK answer to a MERGE shows. -/
theorem cnt_of_merge_ok {s t : State} {x p y : Block} {a : Nat} (hx : s.block? s.rcv = some x)
    (hp : s.block? s.src = some p) (h : exec (.merge a) s = .next t) (hy : t.block? s.rcv = some y)
    (hok : y.rsp = some ⟨.ok, 0⟩) : y.cnt = mergeCounts x.cfg x.cnt p.cnt := by
  obtain ⟨y', hy', he⟩ := exec_receiver h hx
  obtain rfl : y' = y := Option.some.inj (hy'.symm.trans hy)
  obtain ⟨-, -, hcnt⟩ := he.merge_ok hp hok
  exact hcnt

/-- Settles O30: each of the six differences breaks one equality of the check. -/
theorem mergeFullCheckFaults : Obligations.MergeFullCheckFaults := by
  intro s x p a hx hp hf hfull hdiff
  refine exec_merge_incompatible a hx hp hf fun hc => ?_
  obtain ⟨hsize, hrest⟩ := compat_iff.mp hc
  obtain ⟨hwidth, hthreshold, hoffset, hlsbs, hsizes⟩ := hrest hfull
  obtain h | h | h | h | h | h := hdiff
  exacts [h hsize, h hwidth, h hthreshold, h hoffset, h hlsbs, h hsizes]

/-- Settles O31: both settings of the check ask for equal SIZE. -/
theorem sizeMismatchAlwaysFaults : Obligations.SizeMismatchAlwaysFaults := by
  intro s x p a hx hp hf hdiff
  refine exec_merge_incompatible a hx hp hf fun hc => ?_
  obtain ⟨hsize, -⟩ := compat_iff.mp hc
  exact hdiff hsize

/-- Settles O29: the hypotheses are the two halves of the compatibility check. -/
theorem mergeAddsPeerCounters : Obligations.MergeAddsPeerCounters := by
  intro s x p a hx hp hxw hpw hf hsize hfull
  exact exec_merge_compatible a hx hp hxw hpw hf (compat_iff.mpr ⟨hsize, hfull⟩)

/-! ### A block merged into itself, and two blocks merged into each other -/

/-- The merge of an array with itself doubles every counter up to CEIL (R124). -/
theorem mergeCounts_self (c : Config) (l : List Nat) :
    mergeCounts c l l = l.map fun v => min (2 * v) (ceil c) := by
  simp only [mergeCounts, List.zipWith_self, satAdd, two_mul]

/-- Settles O51: a block is its own compatible peer, and a peer that is another block is not the receiving one. -/
theorem selfMergeDoubles : Obligations.SelfMergeDoubles := by
  refine ⟨fun s x a hx hself hwf hf => ?self, fun s t a hother h => ?other⟩
  case self =>
    have hpeer : s.block? s.src = some x := hself ▸ hx
    have hmerge := exec_merge_compatible a hx hpeer hwf hwf hf (compat_snapshot_self x)
    rwa [mergeCounts_self] at hmerge
  case other =>
    obtain ⟨hkept, -⟩ := otherBlocksUntouched _ s t h
    exact hkept s.src hother

/-- The clamped sum does not depend on which of two blocks of one width is the destination (R125). -/
theorem satAdd_comm {c d : Config} (h : c.counterWidth = d.counterWidth) (m n : Nat) :
    satAdd c m n = satAdd d n m := by
  rw [satAdd, satAdd, ceil, ceil, h, Nat.add_comm]

theorem mergeCounts_comm {c d : Config} (h : c.counterWidth = d.counterWidth) (a b : List Nat) :
    mergeCounts c a b = mergeCounts d b a := by
  simp only [mergeCounts]
  rw [List.zipWith_comm]
  simp only [satAdd_comm h]

/-- Settles O52: both hold the slot by slot clamped sums of the counters in the one starting state. -/
theorem mergeIsSymmetric : Obligations.MergeIsSymmetric := by
  intro s t u x y x' y' a b hx hy _ hwidth ht hu hx' hy' hxok hyok
  calc x'.cnt = mergeCounts x.cfg x.cnt y.cnt := cnt_of_merge_ok hx hy ht hx' hxok
    _ = mergeCounts y.cfg y.cnt x.cnt := mergeCounts_comm hwidth _ _
    _ = y'.cnt := (cnt_of_merge_ok (s := { s with rcv := s.src, src := s.rcv }) hy hx hu hy' hyok).symm

/-! ### The total after a merge -/

theorem satAdd_le_add (c : Config) (m n : Nat) : satAdd c m n ≤ m + n := min_le_left _ _

theorem satAdd_eq_add_iff {c : Config} {m n : Nat} : satAdd c m n = m + n ↔ m + n ≤ ceil c := min_eq_left_iff

/-- The merge of two arrays clamps in no slot (R126). -/
def NoClamp (c : Config) (a b : List Nat) : Prop :=
  ∀ i u v : Nat, a[i]? = some u → b[i]? = some v → u + v ≤ ceil c

theorem noClamp_nil (c : Config) : NoClamp c [] [] := fun _ _ _ hu => by simp at hu

/-- The first slot and the other slots clamp apart from each other. -/
theorem noClamp_cons {c : Config} {u v : Nat} {a b : List Nat} :
    NoClamp c (u :: a) (v :: b) ↔ u + v ≤ ceil c ∧ NoClamp c a b := by
  constructor
  · intro h
    exact ⟨h 0 u v rfl rfl, fun i => h (i + 1)⟩
  · rintro ⟨hfirst, hrest⟩ (_ | i) m n hm hn
    · cases hm
      cases hn
      exact hfirst
    · exact hrest i m n hm hn

/-- The sum of the clamped sums is at most the two sums together, and equal exactly when no slot clamps (R126). -/
theorem sum_mergeCounts (c : Config) {a b : List Nat} (hlen : a.length = b.length) :
    (mergeCounts c a b).sum ≤ a.sum + b.sum ∧
      ((mergeCounts c a b).sum = a.sum + b.sum ↔ NoClamp c a b) := by
  induction a generalizing b with
  | nil =>
    obtain rfl : b = [] := List.length_eq_zero_iff.mp hlen.symm
    exact ⟨le_rfl, iff_of_true rfl (noClamp_nil c)⟩
  | cons u a ih =>
    obtain _ | ⟨v, b⟩ := b
    case nil => cases hlen
    case cons =>
      obtain ⟨hle, heq⟩ := ih (Nat.succ.inj hlen)
      have hslot := satAdd_le_add c u v
      have hsum : (mergeCounts c (u :: a) (v :: b)).sum = satAdd c u v + (mergeCounts c a b).sum := List.sum_cons
      rw [noClamp_cons, ← satAdd_eq_add_iff, ← heq, hsum, List.sum_cons, List.sum_cons]
      omega

/-- Settles O53: the merged array is the list of clamped sums, its block stays running and well formed, and so GETTOTAL
answers its sum. -/
theorem totalAfterMerge : Obligations.TotalAfterMerge := by
  intro s t x p y a hx hp hxw _ h hy hok
  obtain ⟨y', rfl, he⟩ := exec_effect h hx
  have hy' := setBlock_same s s.rcv y' hx
  obtain rfl : y' = y := Option.some.inj (hy'.symm.trans hy)
  obtain ⟨hrunning, hlen, hcnt⟩ := he.merge_ok hp hok
  have hyw : y'.Wf := he.wf hxw
  have ⟨_, hylen, _⟩ := hyw
  have htotal := exec_getTotal 0 hy' hrunning hylen hyw.total_fits
  obtain ⟨hle, heq⟩ := sum_mergeCounts x.cfg hlen
  rw [← hcnt] at hle heq
  exact ⟨congrArg List.sum hcnt, hle, heq, _, _, htotal, setBlock_same _ _ _ hy', rfl⟩

end Sys2Proof.Machine
end

section
/-! PROOFS. The statements of 43_address_folding.md: what a configuration must pass and which failure is reported (R148
to R157), the index bit by bit and its symmetries (R141 to R143, R146), its bound (R145) with the runs that rest on it,
and the slots beyond the masks (R147). -/

namespace Sys2Proof.Machine

/-! ### The nine checks -/

/-- A property of every mask, in the words of the rules: of `lsb_j` and `width_j` for every `j` (R6, C9). -/
theorem forall_mem_masks {c : Config} {P : Nat → Nat → Prop} : (∀ m ∈ masks c, P m.1 m.2) ↔
    ∀ j lsb width : Nat, c.maskLsbs[j]? = some lsb → c.maskSizes[j]? = some width → P lsb width := by
  constructor
  · intro h j lsb width hlsb hwidth
    exact h (lsb, width) (List.mem_of_getElem? (List.getElem?_zip_eq_some.mpr ⟨hlsb, hwidth⟩))
  · intro h m hm
    obtain ⟨j, hj⟩ := List.mem_iff_getElem?.mp hm
    obtain ⟨hlsb, hwidth⟩ := List.getElem?_zip_eq_some.mp hj
    exact h j m.1 m.2 hlsb hwidth

/-- The two forms of R155 say the same: a SIZE that bounds a power of two is not 0. -/
theorem two_pow_le_iff_and_le_log2 {w n : Nat} : 2 ^ w ≤ n ↔ 2 ^ w ≤ n ∧ w ≤ Nat.log2 n := by
  refine (and_iff_left_of_imp fun h => ?_).symm
  have hn : n ≠ 0 := ((Nat.two_pow_pos w).trans_le h).ne'
  exact (Nat.le_log2 hn).mpr h

/-- Settles O13: each check stands in front of those after it. -/
theorem firstFailingCheckReported : Obligations.FirstFailingCheckReported := by
  intro c
  have hwidth : checkCounterWidth c = true ↔
      1 ≤ c.counterWidth ∧ ∀ b ∈ c.maxCounterWidth.toList, c.counterWidth ≤ b := by
    simp only [checkCounterWidth_iff, Option.mem_toList]
  have hmasks : checkSomeMask c = true ↔ c.maskLsbs ≠ [] ∧ c.maskSizes ≠ [] :=
    checkSomeMask_iff.trans (and_congr List.length_pos_iff List.length_pos_iff)
  have hcount : checkMaskCount c = true ↔ ∀ b ∈ c.maxMasks.toList, numMasks c ≤ b := by
    simp only [checkMaskCount_iff, Option.mem_toList]
  simp only [ite_not]
  rw [validate, configChecks, firstFailing_cons checkSize_iff, firstFailing_cons hwidth,
    firstFailing_cons checkThreshold_iff, firstFailing_cons checkOffset_iff, firstFailing_cons hmasks,
    firstFailing_cons checkMaskComplete_iff, firstFailing_cons checkLsbRange_iff,
    firstFailing_cons checkMaskWidth_iff, firstFailing_cons hcount]
  rfl

/-- Settles O12: no check fails exactly when all nine pass, each taken as its rule has it. -/
theorem validConfigIff : Obligations.ValidConfigIff := by
  intro c
  have hlsb := checkLsbRange_iff.trans (forall_mem_masks (c := c) (P := fun lsb width => lsb + width ≤ c.addrWidth))
  have hwidth := checkMaskWidth_iff.trans <| (forall₂_congr fun _ _ => two_pow_le_iff_and_le_log2).trans
    (forall_mem_masks (c := c) (P := fun _ width => 2 ^ width ≤ c.size ∧ width ≤ Nat.log2 c.size))
  rw [validate, firstFailing_eq_none]
  simp only [configChecks, List.forall_mem_cons, List.not_mem_nil, false_imp_iff, implies_true, and_true]
  rw [checkSize_iff, checkCounterWidth_iff, checkThreshold_iff, checkOffset_iff, checkSomeMask_iff,
    checkMaskComplete_iff, hlsb, hwidth, checkMaskCount_iff]
  rfl

/-! ### The fold -/

/-- A bit of a field is a bit of the shifted address, below the field's width (R142). -/
theorem testBit_fieldOf (sh : Nat) (m : Nat × Nat) (b : Nat) :
    (fieldOf sh m).testBit b = (decide (b < m.2) && sh.testBit (m.1 + b)) := by
  rw [fieldOf, mask, Nat.testBit_and, Nat.testBit_two_pow_sub_one, Nat.testBit_shiftRight, Bool.and_comm]

/-- A fold that starts from `acc` is the fold from 0 on top of `acc`. -/
theorem foldl_xor_fieldOf (ms : List (Nat × Nat)) (sh acc : Nat) :
    ms.foldl (fun idx m => idx ^^^ fieldOf sh m) acc = acc ^^^ foldFields ms sh := by
  induction ms generalizing acc with
  | nil => exact (Nat.xor_zero acc).symm
  | cons m ms ih => rw [foldFields, List.foldl_cons, List.foldl_cons, ih, ih, Nat.zero_xor, Nat.xor_assoc]

/-- One mask in front of others adds its field (R143). -/
theorem foldFields_cons (m : Nat × Nat) (ms : List (Nat × Nat)) (sh : Nat) :
    foldFields (m :: ms) sh = fieldOf sh m ^^^ foldFields ms sh := by
  rw [foldFields, List.foldl_cons, foldl_xor_fieldOf, Nat.zero_xor]

/-- A bit of the fold is the parity of that bit over the fields (R143). -/
theorem testBit_foldFields (ms : List (Nat × Nat)) (sh b : Nat) :
    (foldFields ms sh).testBit b = decide ((ms.countP fun m => (fieldOf sh m).testBit b) % 2 = 1) := by
  induction ms with
  | nil => exact Nat.zero_testBit b
  | cons m ms ih =>
    rw [foldFields_cons, Nat.testBit_xor, ih, List.countP_cons]
    have hflip (n : Nat) : (n + 1) % 2 = 1 ↔ ¬ n % 2 = 1 := by omega
    cases (fieldOf sh m).testBit b with
    | false => simp
    | true => simp only [if_true, hflip, decide_not, Bool.true_xor]

/-- Settles O17: the parity over the fields, with each field's bit traced back to the address. -/
theorem indexBitIsParity : Obligations.IndexBitIsParity := by
  intro c a b
  rw [index, testBit_foldFields]
  simp only [testBit_fieldOf, shifted, Nat.testBit_shiftRight, Nat.add_assoc]
  rfl

/-- XOR folds the masks to one number in every order (R146). -/
theorem foldFields_perm {ms ns : List (Nat × Nat)} (h : ms.Perm ns) (sh : Nat) :
    foldFields ms sh = foldFields ns sh :=
  h.foldl_eq' (fun _ _ _ _ _ => Nat.xor_right_comm ..) 0

/-- Two identical masks cancel (R146). -/
theorem foldFields_cons_cons_self (m : Nat × Nat) (ms : List (Nat × Nat)) (sh : Nat) :
    foldFields (m :: m :: ms) sh = foldFields ms sh := by
  rw [foldFields_cons, foldFields_cons, ← Nat.xor_assoc, Nat.xor_self, Nat.zero_xor]

/-- The index depends on the configuration through OFFSET_BITS and the fold alone (R144). -/
theorem index_congr {c d : Config} (hoff : c.offsetBits = d.offsetBits)
    (hfold : ∀ sh, foldFields (masks c) sh = foldFields (masks d) sh) (a : Nat) : index c a = index d a := by
  rw [index, index, shifted, shifted, hoff, hfold]

/-- Settles O18: both changes of the mask list keep the fold of every shifted address. -/
theorem maskOrderIrrelevant : Obligations.MaskOrderIrrelevant := by
  intro c d a hoff
  refine ⟨fun hperm => ?order, fun m htwice => ?cancel⟩
  case order => exact index_congr hoff (foldFields_perm hperm) a
  case cancel =>
    have hmasks : masks c = m :: m :: masks d := htwice
    exact index_congr hoff (fun sh => by rw [hmasks, foldFields_cons_cons_self]) a

/-! ### The bound of the index -/

/-- There is no counter at and above SIZE (R9). -/
theorem readCount_outOfRange {x : Block} {i : Nat} (h : x.cfg.size ≤ i) : x.readCount i = none := if_neg h.not_gt

theorem updateCount_outOfRange {x : Block} {i : Nat} (f : Nat → Nat) (h : x.cfg.size ≤ i) :
    x.updateCount i f = .fault .indexOutOfRange := by
  rw [Block.updateCount, readCount_outOfRange h]

theorem queryCount_outOfRange {x : Block} {i : Nat} (f : Nat → Nat) (h : x.cfg.size ≤ i) :
    x.queryCount i f = .fault .indexOutOfRange := by
  rw [Block.queryCount, readCount_outOfRange h]

/-- Settles O16: the widths bound the index of a valid configuration; elsewhere the access to the counter stops, and the
frame of the command passes the stop on. -/
theorem indexBelowSize : Obligations.IndexBelowSize := by
  refine ⟨fun c hc a => index_lt_size hc a, fun s x a hx hf hi => ⟨?set, ?getCount, ?isSet, fun hu => ?unset⟩⟩
  case set => exact runCommand_fault hx hf (updateCount_outOfRange _ hi)
  case getCount => exact runCommand_fault hx hf (queryCount_outOfRange _ hi)
  case isSet => exact runCommand_fault hx hf (queryCount_outOfRange _ hi)
  case unset => exact runCommand_fault hx hf (by rw [if_pos hu, updateCount_outOfRange _ hi])

/-! ### No run of a well-formed system faults -/

/-- The rule of a command other than MERGE reads nothing but the receiving block (R120: MERGE alone has a peer). -/
theorem exec_eq_runCommand_of_ne_merge {i : Instr} (hi : ∀ a, i ≠ .merge a) :
    ∃ body, ∀ s, exec i s = s.runCommand body := by
  cases i with
  | merge a => exact absurd rfl (hi a)
  | _ => exact ⟨_, fun _ => rfl⟩

/-- A command other than MERGE completes on a well-formed block, whatever stands on the merge-source port: it would
complete with the block itself there. -/
theorem exec_completes_of_ne_merge {s : State} {x : Block} {i : Instr} (hi : ∀ a, i ≠ .merge a)
    (hx : s.block? s.rcv = some x) (hxw : x.Wf) : ∃ t, exec i s = .next t := by
  obtain ⟨body, hbody⟩ := exec_eq_runCommand_of_ne_merge hi
  obtain ⟨t, ht⟩ := exec_completes (s := { s with src := s.rcv }) i hx hxw hx hxw
  rw [hbody] at ht ⊢
  obtain ⟨x', hx', ⟨hf, -⟩ | ⟨hf, y, hy, -⟩⟩ := runCommand_next.mp ht
  · exact ⟨_, runCommand_next.mpr ⟨x', hx', .inl ⟨hf, rfl⟩⟩⟩
  · exact ⟨_, runCommand_next.mpr ⟨x', hx', .inr ⟨hf, y, hy, rfl⟩⟩⟩

/-- A MERGE without a peer is refused or answered HALTED, and is no fault of the model (log entry 5). -/
theorem exec_merge_noPeer_ne_fault {s : State} {x : Block} (a : Nat) (f : Fault) (hx : s.block? s.rcv = some x)
    (hp : s.block? s.src = none) : exec (.merge a) s ≠ .fault f := by
  by_cases hf : x.fault = .none
  · simp [exec_merge_noPeer a hx hf hp]
  · have hhalted : exec (.merge a) s = .next (s.setBlock s.rcv x.refuseHalted) := runCommand_halted hx hf
    simp [hhalted]

/-- On a well-formed system no command ends with a fault of the model. -/
theorem exec_ne_fault {s : State} {x : Block} (i : Instr) (f : Fault) (hs : s.Wf) (hx : s.block? s.rcv = some x) :
    exec i s ≠ .fault f := by
  obtain ⟨hblocks, -⟩ := hs
  have hxw : x.Wf := hblocks x (List.mem_of_getElem? hx)
  by_cases hi : ∀ a, i ≠ .merge a
  · obtain ⟨t, ht⟩ := exec_completes_of_ne_merge hi hx hxw
    simp [ht]
  · obtain ⟨a, rfl⟩ : ∃ a, i = .merge a := by simpa using hi
    cases hp : s.block? s.src with
    | none => exact exec_merge_noPeer_ne_fault a f hx hp
    | some p =>
      obtain ⟨t, ht⟩ := exec_completes (.merge a) hx hxw hp (hblocks p (List.mem_of_getElem? hp))
      simp [ht]

/-- On a well-formed system no step faults: an idle step and a reset have no rule to stop, an input that the port
refuses is no fault, and no command that it takes faults. -/
theorem step_ne_fault {s : State} (f : Fault) (hs : s.Wf) : step s ≠ .fault f := by
  cases hh : s.host with
  | nil => simp [step_next.mpr (.inl ⟨hh, rfl⟩)]
  | cons e rest =>
    cases e with
    | reset k =>
      cases hx : s.block? k with
      | none => simp [step_reset_noSuchBlock hh hx]
      | some x => simp [step_reset hh hx]
    | command k p cw =>
      cases hfetch : (s.select k p rest).fetch cw with
      | error r => simp [step_command_refused hh hfetch]
      | ok i =>
        obtain ⟨x, hx, -⟩ := fetch_ok.mp hfetch
        rw [step_command hh hfetch]
        exact exec_ne_fault (s := s.select k p rest) i f hs hx

/-- Settles O43: well-formedness is an invariant under which no step faults. -/
theorem wellFormedNeverFaults : Obligations.WellFormedNeverFaults :=
  neverFaults_of_invariant stepKeepsWellFormed fun _ f hs => step_ne_fault f hs

/-! ### The slots beyond the masks -/

/-- Without MERGE a command leaves the counters, writes the one an address selects, or zeroes all of them. -/
theorem Effect.cnt_of_ne_merge {s : State} {x y : Block} {i : Instr} (h : Effect s x i y) (hi : ∀ a, i ≠ .merge a) :
    y.cnt = x.cnt ∨ (∃ a v, y.cnt = x.cnt.set (index x.cfg a) v) ∨ y.cnt = List.replicate x.cfg.size 0 := by
  cases h with
  | set | unset => exact .inr (.inl ⟨_, _, rfl⟩)
  | clear => exact .inr (.inr rfl)
  | merge => exact absurd rfl (hi _)
  | _ => exact .inl rfl

/-- Settles O55: a slot beyond the masks is not the one that an address selects, so a command leaves or zeroes it. -/
theorem unreachedCountersStayZero : Obligations.UnreachedCountersStayZero := by
  intro i s t x y m h hx hy hmasks hi hzero
  have hindex : ∀ a, index x.cfg a < 2 ^ m := fun a => foldFields_lt _ hmasks
  obtain ⟨y', hy', he⟩ := exec_receiver h hx
  obtain rfl : y' = y := Option.some.inj (hy'.symm.trans hy)
  refine ⟨hindex, fun j c hj hc => ?_⟩
  obtain hcnt | ⟨a, v, hcnt⟩ | hcnt := he.cnt_of_ne_merge hi
  · exact hzero j c hj (hcnt ▸ hc)
  · have hne : index x.cfg a ≠ j := ((hindex a).trans_le hj).ne
    rw [hcnt, List.getElem?_set_ne hne] at hc
    exact hzero j c hj hc
  · rw [hcnt] at hc
    exact List.eq_of_mem_replicate (List.mem_of_getElem? hc)

end Sys2Proof.Machine
end

section
/-! PROOFS. The statements of 44_oracle_reference.md: what each operation of a running oracle does to the count of every
key (R173, R175), and the merge of two oracles (R174). Each operation's lemma says once which count it leaves. -/

namespace Sys2Proof.Machine

/-! ### The counts of the map -/

/-- A key counts 0 exactly when it is not among the keys at 1 (R172). -/
theorem oracle_count_eq_zero {o : Oracle} {a : Nat} : o.count a = 0 ↔ a ∉ o.keys := by
  simp [Oracle.count]

/-- Every counter has 1 bit (R171, R172). -/
theorem oracle_count_le_one (o : Oracle) (a : Nat) : o.count a ≤ 1 := by
  rw [Oracle.count]
  split
  · exact Nat.le_refl 1
  · exact Nat.zero_le 1

theorem mem_foldr_insertKey {b : Nat} {l m : List Nat} : b ∈ l.foldr insertKey m ↔ b ∈ l ∨ b ∈ m := by
  induction l with
  | nil => simp
  | cons a l ih => rw [List.foldr_cons, mem_insertKey, ih, List.mem_cons, or_assoc]

theorem pairwise_foldr_insertKey {l m : List Nat} (h : m.Pairwise (· < ·)) :
    (l.foldr insertKey m).Pairwise (· < ·) := by
  induction l with
  | nil => exact h
  | cons a l ih => exact pairwise_insertKey ih

/-! ### The operations of a running oracle -/

section Running
variable {o : Oracle} (h : o.fault = .none)
include h

/-- `set` saturates: its key counts 1 after it, and no other key changes (R173). -/
theorem oracle_count_set (a b : Nat) : (o.set a).1.count b = if b = a then 1 else o.count b := by
  rw [oracle_set h]
  by_cases hb : b = a
  · simp [Oracle.count, mem_insertKey, hb]
  · simp [Oracle.count, mem_insertKey, hb]

theorem oracle_set_fault (a : Nat) : (o.set a).1.fault = .none := by
  rw [oracle_set h]
  exact h

theorem oracle_set_wf (a : Nat) (hw : o.Wf) : (o.set a).1.Wf := by
  rw [oracle_set h]
  exact pairwise_insertKey hw

/-- A second `set` of the same key changes nothing (R175). -/
theorem oracle_set_set (a : Nat) : (o.set a).1.set a = ((o.set a).1, ⟨.ok, 0⟩) := by
  rw [oracle_set (oracle_set_fault h a), oracle_set h, insertKey_insertKey]

/-- `unset` takes its key away, and no other key changes (R173). -/
theorem oracle_count_unset (a b : Nat) (hu : o.hasUnset = true) :
    (o.unset a).1.count b = if b = a then 0 else o.count b := by
  rw [oracle_unset h a hu]
  by_cases hb : b = a
  · simp [Oracle.count, hb]
  · simp [Oracle.count, hb]

/-- With HAS_UNSET `unset` removes a key, without it the keys stay: both keep the form of the map. -/
theorem oracle_unset_wf (a : Nat) (hw : o.Wf) : (o.unset a).1.Wf := by
  cases hu : o.hasUnset with
  | true =>
    rw [oracle_unset h a hu]
    exact hw.filter _
  | false =>
    rw [oracle_unset_unsupported h a hu]
    exact hw

theorem oracle_clear_wf : o.clear.1.Wf := by
  rw [oracle_clear h]
  exact List.Pairwise.nil

/-- The total is the sum of the counts over any range that holds the keys at 1 (R173). -/
theorem oracle_getTotalCount_eq_sum (hw : o.Wf) {n : Nat} (hn : ∀ k, n ≤ k → o.count k = 0) :
    o.getTotalCount = (o, ⟨.ok, ((List.range n).map o.count).sum⟩) := by
  have hbound (k : Nat) (hk : k ∈ o.keys) : k < n := by
    by_contra hle
    exact oracle_count_eq_zero.mp (hn k (Nat.le_of_not_lt hle)) hk
  have hlen : o.keys.length = ((List.range n).map o.count).sum := length_eq_sum_count hw n hbound
  rw [oracle_getTotalCount h, hlen]

/-- A merge joins the two sets of keys, which is `min(sum, 1)` on the counts (R174). -/
theorem oracle_count_merge (p : Oracle) (a : Nat) :
    (o.merge p).1.count a = min (o.count a + p.count a) 1 := by
  rw [oracle_merge h]
  by_cases ho : a ∈ o.keys
  · simp [Oracle.count, mem_foldr_insertKey, ho]
  · by_cases hp : a ∈ p.keys
    · simp [Oracle.count, mem_foldr_insertKey, hp]
    · simp [Oracle.count, mem_foldr_insertKey, ho, hp]

end Running

/-! ### The obligations -/

/-- Settles O58: each operation's lemma, with 0 and 1 the only counts; a fresh oracle has no key. -/
theorem oracleIsExact : Obligations.OracleIsExact := by
  refine ⟨fun o a b h => ⟨?set, oracle_getCount h b, oracle_isSet h b, fun hw N => oracle_getTotalCount_eq_sum h hw,
    fun hu => ?unset, fun hu => ?unsupported, ?clear, fun hw => ?form⟩, fun u o a ho => ?fresh⟩
  case set =>
    have hcount := oracle_count_set h a b
    have hsat : min (o.count b + 1) 1 = 1 := Nat.min_eq_right (Nat.le_add_left 1 _)
    have hget := oracle_getCount (oracle_set_fault h a) b
    rw [hcount] at hget
    rw [hsat]
    exact ⟨by rw [oracle_set h], oracle_set_fault h a, by rw [oracle_set h], hcount, hget, oracle_set_set h a⟩
  case unset =>
    have hle := oracle_count_le_one o b
    refine ⟨by rw [oracle_unset h a hu], by rw [oracle_unset h a hu, h], by rw [oracle_unset h a hu, hu], ?_⟩
    rw [oracle_count_unset h a b hu]
    split <;> omega
  case unsupported =>
    rw [oracle_unset_unsupported h a hu]
    exact ⟨rfl, rfl⟩
  case clear =>
    rw [oracle_clear h]
    exact ⟨rfl, h, rfl, oracle_count_eq_zero.mpr List.not_mem_nil⟩
  case form => exact ⟨oracle_set_wf h a hw, oracle_unset_wf h a hw, oracle_clear_wf h⟩
  case fresh =>
    obtain rfl := oracle_build_eq_some.mp ho
    refine ⟨List.Pairwise.nil, rfl, rfl, fun b => oracle_count_eq_zero.mpr List.not_mem_nil, ?_⟩
    rw [oracle_set_set rfl a, oracle_getTotalCount (oracle_set_fault rfl a), oracle_set rfl]
    rfl

/-- Settles O59: the count by the union of the keys, the rest by what `merge` writes. -/
theorem oracleMergeIsPerKey : Obligations.OracleMergeIsPerKey := by
  intro o p a h
  refine ⟨oracle_count_merge h p a, ?_⟩
  rw [oracle_merge h]
  exact ⟨rfl, h, rfl, pairwise_foldr_insertKey⟩

end Sys2Proof.Machine
end

section
/-! PROOFS. The statements of 60_exceptions.md: the agreement of the response port with FAULT (R206 to R208), the three
causes of a fault (R200 to R205), the halted state and the way back from it (R208 to R210), the idle step (R213), and
the system that boots (R215, R232). -/

namespace Sys2Proof.Machine

/-! ### Idle, halted and faulting commands -/

/-- Settles O11: the case of a step without an input. -/
theorem idleStepChangesNothing : Obligations.IdleStepChangesNothing := fun _ hh =>
  step_next.mpr (.inl ⟨hh, rfl⟩)

/-- Every command runs in the frame that asks for a halted receiver first (R206), and that answers HALTED (R208). -/
theorem exec_halted {s : State} {x : Block} (i : Instr) (hx : s.block? s.rcv = some x) (hf : x.fault ≠ .none) :
    exec i s = .next (s.setBlock s.rcv x.refuseHalted) := by
  obtain ⟨body, hbody⟩ := exec_eq_runCommand i s
  rw [hbody]
  exact runCommand_halted hx hf

/-- Settles O33: the frame of every command answers a halted block alike. -/
theorem haltedBlockAnswersHalted : Obligations.HaltedBlockAnswersHalted := fun _ _ i hx hf =>
  exec_halted i hx hf

/-- UNSET on a running block without HAS_UNSET enters the fault UNSUPPORTED (R203). -/
theorem exec_unset_unsupported {s : State} {x : Block} (a : Nat) (hx : s.block? s.rcv = some x)
    (hf : x.fault = .none) (hno : x.cfg.hasUnset = false) :
    exec (.unset a) s = .next (s.setBlock s.rcv (x.raise .unsupported)) :=
  runCommand_next.mpr ⟨x, hx, .inr ⟨hf, _, if_neg (Bool.eq_false_iff.mp hno), rfl⟩⟩

/-- Settles O24: the entry into UNSUPPORTED writes FAULT and the response. -/
theorem unsetWithoutCapabilityFaults : Obligations.UnsetWithoutCapabilityFaults := fun _ _ a hx hf hno =>
  exec_unset_unsupported a hx hf hno

/-- What the reserved opcodes share, on a running block: the entry into ILLEGAL_COMMAND (R202). -/
theorem illegalCommand_running {s : State} {x : Block} (hx : s.block? s.rcv = some x) (hf : x.fault = .none) :
    s.illegalCommand = .next (s.setBlock s.rcv (x.raise .illegalCommand)) :=
  runCommand_next.mpr ⟨x, hx, .inr ⟨hf, _, rfl, rfl⟩⟩

/-- Settles O32: the meaning of each of the nine is the entry into ILLEGAL_COMMAND. -/
theorem reservedOpcodesFault : Obligations.ReservedOpcodesFault := by
  intro s x a i hx hf hi
  have hillegal := illegalCommand_running hx hf
  obtain rfl | rfl | rfl | rfl | rfl | rfl | rfl | rfl | rfl := hi <;> exact hillegal

/-! ### What an effect does to FAULT -/

/-- A halted block answers HALTED, and no other effect is left (R208). -/
theorem Effect.eq_refuseHalted {s : State} {x y : Block} {i : Instr} (h : Effect s x i y) (hf : x.fault ≠ .none) :
    y = x.refuseHalted := by
  cases h with
  | halted => rfl
  | set run | unset run | unsupported run | clear run | getCount run | isSet run | getTotal run | merge run
  | incompatible run | illegal run => exact absurd run hf

/-- A running block that a command leaves halted has taken a fault entry (R207), for one of the three causes (R200 to
R205). -/
theorem Effect.eq_raise {s : State} {x y : Block} {i : Instr} (h : Effect s x i y) (run : x.fault = .none)
    (hf : y.fault ≠ .none) :
    ∃ f, y = x.raise f ∧
      ((f = .illegalCommand ∧ ((opcodeOf i).toNat = 0 ∨ 8 ≤ (opcodeOf i).toNat)) ∨
        (f = .unsupported ∧ x.cfg.hasUnset = false ∧ ∃ a, i = .unset a) ∨
        (f = .compatError ∧ (∃ a, i = .merge a) ∧ ∃ p, s.block? s.src = some p ∧ compat x.cfg p.snapshot = false)) := by
  cases h with
  | illegal _ reserved => exact ⟨_, rfl, .inl ⟨rfl, reserved⟩⟩
  | unsupported _ has => exact ⟨_, rfl, .inr (.inl ⟨rfl, has, _, rfl⟩)⟩
  | incompatible _ peer bad => exact ⟨_, rfl, .inr (.inr ⟨rfl, ⟨_, rfl⟩, _, peer, bad⟩)⟩
  | halted halted => exact absurd run halted
  | set | unset | clear | getCount | isSet | getTotal | merge => exact absurd run hf

/-- Settles O40: the receiving block has taken a fault entry, which keeps its counters and configuration and answers
the code. -/
theorem onlyThreeCausesHalt : Obligations.OnlyThreeCausesHalt := by
  intro i s t x y h hx hy run hf
  obtain ⟨y', hy', he⟩ := exec_receiver h hx
  obtain rfl : y' = y := Option.some.inj (hy'.symm.trans hy)
  obtain ⟨f, rfl, hcause⟩ := he.eq_raise run hf
  exact ⟨raise_cnt x f, raise_cfg x f, raise_rsp x f, hcause⟩

/-- Whatever the port showed before, the response to a command agrees with the FAULT that the command leaves. -/
theorem Effect.agrees {s : State} {x y : Block} {i : Instr} (h : Effect s x i y) : y.Agrees := by
  intro r hr
  obtain ⟨r', hrsp, hresponse⟩ := h.response
  obtain rfl : r = r' := by simpa [hrsp] using hr
  obtain ⟨halted, hkept, rfl⟩ | ⟨-, hstatus, -⟩ := hresponse
  · exact .inl ⟨rfl, hkept ▸ halted⟩
  · exact .inr hstatus

/-! ### What a step does to one block -/

/-- Block `k` over a step: it stands as it was, takes its own reset, or takes a command's effect (R24, R213, R230). -/
theorem step_block? {s t : State} (h : step s = .next t) (k : Nat) :
    t.block? k = s.block? k ∨ ∃ x y, s.block? k = some x ∧ t.block? k = some y ∧
      ((y = x.reset ∧ ∃ rest, s.host = .reset k :: rest) ∨ ∃ i s', Effect s' x i y) := by
  obtain ⟨-, rfl⟩ | ⟨j, rest, x, hh, hx, rfl⟩ | ⟨j, p, cw, rest, i, x, y, -, hx, -, rfl, he⟩ := step_effect h
  · exact .inl rfl
  · by_cases hk : k = j
    · subst hk
      exact .inr ⟨x, _, hx, setBlock_same _ k _ hx, .inl ⟨rfl, rest, hh⟩⟩
    · exact .inl (setBlock_other _ j _ hk)
  · by_cases hk : k = j
    · subst hk
      exact .inr ⟨x, y, hx, setBlock_same _ k y hx, .inr ⟨i, _, he⟩⟩
    · exact .inl (setBlock_other _ j y hk)

/-- Settles O45: a block after a step stood there before, is in its reset state, or was left by an effect. -/
theorem stepKeepsPortAgreement : Obligations.StepKeepsPortAgreement := by
  refine ⟨fun s t hs h y hy => ?step, fun s hs x hx => ?reset⟩
  case step =>
    obtain ⟨k, hk⟩ := List.mem_iff_getElem?.mp hy
    obtain hsame | ⟨x, z, -, hz, hxz⟩ := step_block? h k
    · exact hs y (List.mem_of_getElem? (hsame.symm.trans hk))
    · obtain rfl : z = y := Option.some.inj (hz.symm.trans hk)
      obtain ⟨rfl, -⟩ | ⟨i, s', he⟩ := hxz
      · exact atReset_agrees x.cfg
      · exact he.agrees
  case reset =>
    obtain ⟨c, rfl⟩ := hs x hx
    exact atReset_agrees c

/-- Settles O39: a command on the halted block is answered HALTED, and a step that resets it is its own reset. -/
theorem faultIsSticky : Obligations.FaultIsSticky := by
  intro s t k x h hx hf
  obtain hsame | ⟨x', y, hx', hy, hxy⟩ := step_block? h k
  · exact ⟨x, hsame.trans hx, .inl ⟨rfl, rfl⟩⟩
  · obtain rfl : x' = x := Option.some.inj (hx'.symm.trans hx)
    obtain ⟨rfl, hreset⟩ | ⟨i, s', he⟩ := hxy
    · exact ⟨_, hy, .inr ⟨reset_fault x', hreset⟩⟩
    · obtain rfl := he.eq_refuseHalted hf
      exact ⟨_, hy, .inl ⟨refuseHalted_fault x', refuseHalted_cnt x'⟩⟩

/-! ### The system that boots -/

/-- A list that elaborates is of legal configurations, and gives the reset block of each (R157, R219; log entry 21). -/
theorem elaborateAll_ok {cs : List Config} {xs : List Block} (h : elaborateAll cs = .ok xs) :
    (∀ c ∈ cs, c.Legal) ∧ xs = cs.map Block.atReset := by
  induction cs generalizing xs with
  | nil =>
    cases h
    exact ⟨List.forall_mem_nil _, rfl⟩
  | cons c cs ih =>
    unfold elaborateAll at h
    split at h
    · cases h
    next x hx =>
      split at h
      · cases h
      next ys hys =>
        cases h
        obtain ⟨hlegal, rfl⟩ := elaborate_ok.mp hx
        obtain ⟨hall, rfl⟩ := ih hys
        exact ⟨List.forall_mem_cons.mpr ⟨hlegal, hall⟩, rfl⟩

/-- Every `ADDR_WIDTH` is that of the first configuration, so any two are equal (D3). -/
theorem addrWidth_eq_of_sameAddrWidth {cs : List Config} (h : sameAddrWidth cs = true) :
    ∀ c ∈ cs, ∀ d ∈ cs, c.addrWidth = d.addrWidth := by
  cases cs with
  | nil => simp
  | cons b rest =>
    have hrest : ∀ d ∈ rest, d.addrWidth = b.addrWidth := by simpa [sameAddrWidth] using h
    have hall : ∀ d ∈ b :: rest, d.addrWidth = b.addrWidth := List.forall_mem_cons.mpr ⟨rfl, hrest⟩
    intro c hc d hd
    rw [hall c hc, hall d hd]

/-- A system boots from legal configurations of one `ADDR_WIDTH`, each block in its reset state (R215, R219, R232). -/
theorem boot_ok {cs : List Config} {evs : List HostEvent} {s : State} (h : boot cs evs = .ok s) :
    (∀ c ∈ cs, c.Legal) ∧ sameAddrWidth cs = true ∧
      s = { blocks := cs.map Block.atReset, rcv := 0, src := 1, host := evs } := by
  unfold boot at h
  split at h
  · cases h
  next xs hxs =>
    obtain ⟨hlegal, rfl⟩ := elaborateAll_ok hxs
    split at h
    next hwidth => exact ⟨hlegal, hwidth, (Except.ok.inj h).symm⟩
    · cases h

/-- Settles O15: each block is the reset state of a configuration that passed every check of boot. -/
theorem bootedSystemWellFormed : Obligations.BootedSystemWellFormed := by
  intro cs evs s h
  obtain ⟨hlegal, hsame, rfl⟩ := boot_ok h
  have hwidth := addrWidth_eq_of_sameAddrWidth hsame
  refine ⟨⟨List.forall_mem_map.mpr fun c hc => atReset_wf (hlegal c hc), ?width⟩,
    List.forall_mem_map.mpr fun c _ => atReset_agrees c, rfl, rfl⟩
  case width =>
    exact List.forall_mem_map.mpr fun c hc => List.forall_mem_map.mpr fun d hd => hwidth c hc d hd

end Sys2Proof.Machine
end

section
/-! PROOFS. The statements of 70_reset_and_hazards.md: a reset while a command is in progress (R230, I14). -/

namespace Sys2Proof.Machine

/-! ### A command in progress at reset -/

/-- The reset state of a block hangs on its configuration alone (R30). -/
theorem reset_congr {x y : Block} (h : y.cfg = x.cfg) : y.reset = x.reset := congrArg Block.atReset h

/-- Reset of a block forgets what was last written to that block, save its configuration (R230). -/
theorem resetBlock_setBlock {s : State} {k : Nat} {x y : Block} (hx : s.block? k = some x) (hcfg : y.cfg = x.cfg) :
    (s.setBlock k y).resetBlock k = s.resetBlock k := by
  have hdiscarded : s.resetBlock k = .next (s.setBlock k x.reset) := resetBlock_next.mpr ⟨x, hx, rfl⟩
  have hcompleted : (s.setBlock k y).resetBlock k = .next ((s.setBlock k y).setBlock k y.reset) :=
    resetBlock_next.mpr ⟨y, setBlock_same s k y hx, rfl⟩
  rw [hcompleted, hdiscarded, setBlock_setBlock, reset_congr hcfg]

/-- Settles O10: a command writes only its receiving block and keeps its configuration, which is all a reset reads. -/
theorem resetDiscardsCommand : Obligations.ResetDiscardsCommand := by
  intro i s t h
  obtain ⟨x, y, hx, rfl, -, heffect⟩ := exec_next h
  exact resetBlock_setBlock hx heffect.cfg_eq

end Sys2Proof.Machine
end

section
/-! PROOFS. The sample command words of 95_test_vectors.md section 2.3. -/

namespace Sys2Proof.Machine

/-! ### Sample words -/

/-- Settles O1: each word is `addr × 16 + op` of its command, whose `addr` has sixteen bits, so it is read back (R61). -/
theorem decodeSampleWords : Obligations.DecodeSampleWords := by
  have sample {cw : Nat} (i : Instr) (hword : encode i = cw) (haddr : i.addr < 2 ^ 16) : decode 16 cw = .ok i :=
    hword ▸ decode_encode haddr
  exact ⟨sample (.set 2) rfl (by decide), sample (.unset 3) rfl (by decide),
    sample (.getCount 2) rfl (by decide), sample (.isSet 10) rfl (by decide),
    sample (.getTotal 0) rfl (by decide), sample (.getTotal 0xFFFF) rfl (by decide),
    sample (.clear 0) rfl (by decide), sample (.merge 0) rfl (by decide),
    sample (.reserved0 0) rfl (by decide), sample (.reserved9 5) rfl (by decide),
    sample (.reservedF 0xFFFF) rfl (by decide), sample (.set 0x1234) rfl (by decide)⟩

end Sys2Proof.Machine
end
